-- ==== Sys2Proof/Word.lean ====
section
/-! DEFINITION. The word types of the machine (R8, R9): digits of data memory, words of program memory,
ROM addresses, and the two halves of an 8-bit quantity. -/

namespace Sys2Proof

/-- A 4-bit value: a RAM digit, A, D, EN, G or SIO. -/
abbrev Digit := BitVec 4

/-- An 8-bit value: a ROM word, Q, T or the L pins. -/
abbrev Byte := BitVec 8

/-- An 11-bit ROM address: PC, SA, SB or SC (R41, R42). -/
abbrev RomAddr := BitVec 11

end Sys2Proof
end

