-- ==== Sys2Proof/Config.lean ====
section
/-! DEFINITION. The configuration record of R6: the part number (R2), the mask options (R53), the parameters the
spec leaves open (R6, D6, D7, D8, D29, U16), and the free values: constants without a body, of which nothing can be
proved beyond their width. -/

namespace Sys2Proof

/-- The ten part numbers of R2. -/
inductive Part
  | etc9420 | etc9421 | etc9422 | etc9444 | etc9445
  | etc9320 | etc9321 | etc9322 | etc9344 | etc9345
deriving DecidableEq, Repr, Inhabited

/-- R2, R3: the parts with 2048 bytes of ROM. -/
def Part.is2K : Part → Bool
  | .etc9444 | .etc9445 | .etc9344 | .etc9345 => true
  | .etc9420 | .etc9421 | .etc9422 | .etc9320 | .etc9321 | .etc9322 => false

/-- `ROM_BYTES` of R2. -/
def Part.romBytes (p : Part) : Nat := if p.is2K then 2048 else 1024

/-- `RAM_DIGITS` of R2. -/
def Part.ramDigits (p : Part) : Nat := if p.is2K then 128 else 64

/-- `BR_BITS` of R2, the width of Br. -/
def Part.brBits (p : Part) : Nat := if p.is2K then 3 else 2

/-- `PINS` of R2. -/
def Part.pins : Part → Nat
  | .etc9420 | .etc9444 | .etc9320 | .etc9344 => 28
  | .etc9421 | .etc9445 | .etc9321 | .etc9345 => 24
  | .etc9422 | .etc9322 => 20

/-- The column "I/O lines" of R2. -/
def Part.ioLineCount : Part → Nat
  | .etc9420 | .etc9444 | .etc9320 | .etc9344 => 23
  | .etc9421 | .etc9445 | .etc9321 | .etc9345 => 19
  | .etc9422 | .etc9322 => 15

/-- The column `HAS_IN` of R2: a 28-pin part number. -/
def Part.hasIn (p : Part) : Bool := p.pins == 28

/-- Option 2, the CKO pin (R54). -/
inductive CkoOption
  | clockOutput | haltPort | inputWithLoad | inputHighZ
deriving DecidableEq, Repr, Inhabited

/-- Option 3, the CKI input; the value 3 is not in the list (U13). -/
inductive CkiOption
  | crystalDiv4 | crystalDiv8 | crystalDiv16 | rcDiv4 | externalDiv4 | externalDiv8 | externalDiv16
deriving DecidableEq, Repr, Inhabited

/-- Options 4, 9, 10, 16, 19, 20: the load of an input. -/
inductive InputLoad
  | loadToVcc | highZ
deriving DecidableEq, Repr, Inhabited

/-- Options 5 to 8, 12 to 15, 17, 18, 21 to 28: the driver of an output. -/
inductive Driver
  | standard | lowCurrent | openDrain
deriving DecidableEq, Repr, Inhabited

/-- Option 30, the dual clock (R282). -/
inductive DualClock
  | normal | d0RcOscillator | d0ExternalClock
deriving DecidableEq, Repr, Inhabited

/-- Option 31, the timer mode (R262). -/
inductive TimerMode
  | timeBase | eventCounter
deriving DecidableEq, Repr, Inhabited

/-- Option 33, the chip bonding. -/
inductive Bonding
  | pins28 | pins24 | pins24And28 | pins20 | pins28And20 | pins24And20 | pins28And24And20
deriving DecidableEq, Repr, Inhabited

/-- Option 33 names a bonding with 28 pins, alone or among others. -/
def Bonding.has28 : Bonding → Bool
  | .pins28 | .pins24And28 | .pins28And20 | .pins28And24And20 => true
  | .pins24 | .pins20 | .pins24And20 => false

/-- The mask options of R53 by their numbers (1 and 11 are supply pins and no options). -/
structure MaskOptions where
  /-- Option 2. -/
  cko : CkoOption := .clockOutput
  /-- Option 3. -/
  cki : CkiOption := .crystalDiv4
  /-- Option 4. -/
  resetLoad : InputLoad := .loadToVcc
  /-- Options 5 to 8: L7 to L4. -/
  l7Driver : Driver := .standard
  l6Driver : Driver := .standard
  l5Driver : Driver := .standard
  l4Driver : Driver := .standard
  /-- Option 9. -/
  in1Load : InputLoad := .loadToVcc
  /-- Option 10. -/
  in2Load : InputLoad := .loadToVcc
  /-- Options 12 to 15: L3 to L0. -/
  l3Driver : Driver := .standard
  l2Driver : Driver := .standard
  l1Driver : Driver := .standard
  l0Driver : Driver := .standard
  /-- Option 16. -/
  siLoad : InputLoad := .loadToVcc
  /-- Option 17. -/
  soDriver : Driver := .standard
  /-- Option 18. -/
  skDriver : Driver := .standard
  /-- Option 19. -/
  in0Load : InputLoad := .loadToVcc
  /-- Option 20. -/
  in3Load : InputLoad := .loadToVcc
  /-- Options 21 to 24: G0 to G3. -/
  g0Driver : Driver := .standard
  g1Driver : Driver := .standard
  g2Driver : Driver := .standard
  g3Driver : Driver := .standard
  /-- Options 25 to 28: D3 to D0. -/
  d3Driver : Driver := .standard
  d2Driver : Driver := .standard
  d1Driver : Driver := .standard
  d0Driver : Driver := .standard
  /-- Option 29 = 1: no internal initialization logic (R300); read by State.powerUp. -/
  noResetLogic : Bool := false
  /-- Option 30. -/
  dualClock : DualClock := .normal
  /-- Option 31. -/
  timer : TimerMode := .timeBase
  /-- Option 32 = 1: MICROBUS (R277). -/
  microbus : Bool := false
  /-- Option 33. -/
  bonding : Bonding := .pins28
deriving DecidableEq, Repr, Inhabited

/-- `TICK_PHASE` (R6, R261, D1, D11, U16): where the ticks of an executed instruction's cycles fall (entry 19). The
values here are the spec's default: the effect first, then the ticks, and none of the time base for CAMT's own cycles. -/
structure TickPhase where
  /-- How many of the instruction's cycles tick before its effect; the others tick after it. -/
  ticksBefore : Nat := 0
  /-- Whether the cycles of an executed CAMT tick the time base like any other. -/
  camtTicks : Bool := false
deriving DecidableEq, Repr, Inhabited

/-- The parameters that the spec leaves OPEN: a claim must hold for each of their values. -/
structure OpenParams where
  /-- `IN1_PULSE_LATCHED_WHEN_DISABLED` (R253, D7, U18). -/
  in1PulseLatchedWhenDisabled : Bool
  /-- `LQID_POP_RESTORES_SKIP` (R186, D8, U9). -/
  lqidPopRestoresSkip : Bool
  /-- `ACK_BEFORE_FIRST_LBI` (R254, D6, U17). -/
  ackBeforeFirstLbi : Bool
  /-- `INT_ENTRY_CYCLES` (R255, D29). -/
  intEntryCycles : Nat
  /-- `TICK_PHASE` (U16). -/
  tickPhase : TickPhase
deriving DecidableEq, Repr, Inhabited

/-- The configuration record of R6, fixed for the life of a chip. The ROM image is held in State (entry 2). -/
structure Config where
  part : Part
  options : MaskOptions
  params : OpenParams
deriving DecidableEq, Repr, Inhabited

/-- `HAS_IN` of R6, by the part number and option 33: a 28-pin part that is not bonded for 24 or 20 pins only (R2, R53,
entry 21). -/
def Config.hasIn (c : Config) : Bool := c.part.hasIn && c.options.bonding.has28

/-- A 20-pin package: a 20-pin part number, or an option 33 that names 20 pins only (R2, R53, entry 21). -/
def Config.is20Pin (c : Config) : Bool := c.part.pins == 20 || c.options.bonding == .pins20

/-- One sample of every level input of R51, and whether the D0 oscillator is the running clock (U14). -/
structure Pins where
  /-- `INpin[3:0]`. -/
  inp : Digit
  /-- `Gpin[3:0]`. -/
  g : Digit
  /-- `Lpin[7:0]`. -/
  l : Byte
  /-- `SIpin`. -/
  si : Bool
  /-- `CKOpin`. -/
  cko : Bool
  /-- U14: the chip is running with the D0 clock (read by a HALT request under option 30 = 2 only). -/
  d0Clock : Bool
deriving DecidableEq, Repr, Inhabited

/-- The registers whose value after reset the spec leaves unspecified (R302, U1). -/
structure Unspecified where
  q : Byte
  sio : Digit
  sa : RomAddr
  sb : RomAddr
  sc : RomAddr
  tov : Bool
deriving DecidableEq, Repr, Inhabited

/-- The registers that nothing initializes at the power-up of a chip with option 29 = 1, besides the unspecified ones
(R300, entry 44). -/
structure Uninitialized where
  a : Digit
  b : BitVec 7
  c : Bool
  d : Digit
  en : Digit
  g : Digit
  il3 : Bool
  il0 : Bool
  skl : Bool
  t : Byte
  tp : BitVec 2
  pc : RomAddr
  skip : Bool
  lbiChain : Bool
  sskip : Bool
  intReq : Bool
  halted : Bool
  idle : Bool
deriving DecidableEq, Repr, Inhabited

/-! ### Free values: no body, so nothing can be proved of them -/

/-- DESIGN CHOICE (entry 6). The open parameters of the chip that State.reset describes, but for `TICK_PHASE`, which
State.reset sets to the spec's default (entry 19). Safe: any values. -/
opaque Config.openParams : OpenParams

/-- DESIGN CHOICE (entry 4). `RESET_UNSPECIFIED`: the unspecified registers after the reset numbered n. -/
opaque Config.resetUnspecified : Nat → Unspecified

/-- DESIGN CHOICE (entry 44). What the other registers hold after the power-up numbered n of a chip with option 29 = 1. -/
opaque Config.uninitialized : Nat → Uninitialized

/-- DESIGN CHOICE (entry 3). What the digit at an address holds after the power-up numbered by the first argument. -/
opaque Config.powerUpDigit : Nat → Nat → Digit

/-- DESIGN CHOICE (entry 2). The mask-programmed word at a ROM address that State does not list. -/
opaque Config.maskRomByte : Nat → Byte

/-- DESIGN CHOICE (entry 8). `PORT_READ`: the pin levels at the sample numbered n. -/
opaque Config.pinLevels : Nat → Pins

/-- DESIGN CHOICE (entry 47). Which four lines of the 24-pin package the 20-pin package lacks (N3), as the places at which
they are struck off one after another; the first is a G line (R230). -/
opaque Config.unbondedLines : Fin 4 × Fin 18 × Fin 17 × Fin 16

/-- DESIGN CHOICE (entry 15). What CTMA delivers under the dual clock (U7). -/
opaque Config.ctmaByte : Nat → Byte

/-- DESIGN CHOICE (entry 14). What INIL delivers in A[3] (`fst`) and A[0] (`snd`) without IN pins (U8). -/
opaque Config.ilBits : Nat → Bool × Bool

/-- DESIGN CHOICE (entry 9). Whether a pulse that arrives in HALT or IDLE is registered (U20). -/
opaque Config.pulseRegistered : Nat → Bool

end Sys2Proof
end

