-- ==== Sys2Proof/Syntax.lean ====
section
/-! DEFINITION. The instructions of Table 3: one constructor per row of spec/opcode_table.json. Operand widths are
those of the encoding's fields (R101 to R105). -/

namespace Sys2Proof

/-- The 67 rows of the opcode table. -/
inductive Instr
  -- arithmetic
  | asc | add | adt
  | aisc (y : Digit)
  | casc | clra | comp | nop | rc | sc | xor
  -- transfer of control
  | jid
  | jmp (a : RomAddr)
  /-- JP in format F1J7, inside pages 2 and 3. -/
  | jpPages23 (a : BitVec 7)
  /-- JP in format F1J6, in all other pages. -/
  | jpPage (a : BitVec 6)
  | jsrp (a : BitVec 6)
  | jsr (a : RomAddr)
  | ret | retsk | halt | it
  -- memory reference
  | camt | ctma | camq | cqma
  | ld (r : BitVec 2)
  | ldd (r : BitVec 3) (d : Digit)
  | lqid
  | rmb0 | rmb1 | rmb2 | rmb3
  | smb0 | smb1 | smb2 | smb3
  | stii (y : Digit)
  | x (r : BitVec 2)
  | xad (r : BitVec 3) (d : Digit)
  | xds (r : BitVec 2)
  | xis (r : BitVec 2)
  -- register reference
  | cab | cba
  /-- LBI in the one-byte format F1B; d is the operand, not the stored field (R104). -/
  | lbiShort (r : BitVec 2) (d : Digit)
  /-- LBI in the two-byte format F2B. -/
  | lbiLong (r : BitVec 3) (d : Digit)
  | lei (y : Digit)
  | xabr
  -- test
  | skc | ske | skgz
  | skgbz0 | skgbz1 | skgbz2 | skgbz3
  | skmbz0 | skmbz1 | skmbz2 | skmbz3
  | skt
  -- input/output
  | ing | inin | inil | inl | obd
  | ogi (y : Digit)
  | omg | xas
deriving DecidableEq, Repr

end Sys2Proof
end

