-- ==== Sys2Proof/WellFormed.lean ====
section
/-! DEFINITION. What is well formed: an instruction that has an encoding, an instruction in the page context and on
the part it is encoded for, a configuration of the option list (R6, R53, U13), and a ROM image that keeps the two
programming rules on fixed words (R303, R305, U5). -/

namespace Sys2Proof

/-- The operands that an encoding of the instruction can express: AISC excludes 0 (R102, R112), JP and JSRP exclude
the last word of a page (R107), the one-byte LBI takes d = 0 and d = 9 to 15 (R104). -/
def Instr.wf : Instr → Bool
  | .aisc y => y != 0#4
  | .jpPages23 a => a != 0x3F#7 && a != 0x7F#7
  | .jpPage a => a != 0x3F#6
  | .jsrp a => a != 0x3F#6
  | .lbiShort _ d => d == 0#4 || 9 ≤ d.toNat
  | .asc | .add | .adt | .casc | .clra | .comp | .nop | .rc | .sc | .xor
  | .jid | .jmp _ | .jsr _ | .ret | .retsk | .halt | .it
  | .camt | .ctma | .camq | .cqma | .ld _ | .ldd _ _ | .lqid
  | .rmb0 | .rmb1 | .rmb2 | .rmb3 | .smb0 | .smb1 | .smb2 | .smb3
  | .stii _ | .x _ | .xad _ _ | .xds _ | .xis _
  | .cab | .cba | .lbiLong _ _ | .lei _ | .xabr
  | .skc | .ske | .skgz | .skgbz0 | .skgbz1 | .skgbz2 | .skgbz3
  | .skmbz0 | .skmbz1 | .skmbz2 | .skmbz3 | .skt
  | .ing | .inin | .inil | .inl | .obd | .ogi _ | .omg | .xas => true

/-- R106: where the instruction can stand, by whether the byte after it lies in pages 2 or 3. -/
def Instr.fitsPage (inPages23 : Bool) : Instr → Bool
  | .jpPages23 _ => inPages23
  | .jpPage _ => !inPages23
  | .jsrp _ => !inPages23
  | _ => true

/-- R103, R111 (b): the r field names a data register of the part. -/
def Instr.fitsPart (p : Part) : Instr → Bool
  | .ldd r _ => p.is2K || r.toNat < 4
  | .xad r _ => p.is2K || r.toNat < 4
  | .lbiLong r _ => p.is2K || r.toNat < 4
  | _ => true

/-- The combinations of the option list (R6, R53, U13), and MICROBUS only where the IN pins are (R277). -/
def Config.legal (c : Config) : Bool :=
  let o := c.options
  let inputsPlain := o.in1Load == .loadToVcc && o.in2Load == .loadToVcc
    && o.in0Load == .loadToVcc && o.in3Load == .loadToVcc
  (o.dualClock != .d0RcOscillator || o.d0Driver == .openDrain)
    && (!o.microbus || (o.timer == .timeBase && c.hasIn))
    && (match o.bonding with
      | .pins28 | .pins24 => true
      | .pins24And28 => inputsPlain && !o.microbus && !c.part.is2K
      | .pins20 | .pins28And20 | .pins24And20 | .pins28And24And20 =>
        inputsPlain && o.g0Driver == .standard && o.g1Driver == .standard
          && o.dualClock == .normal && !o.microbus)

/-- The two bytes are an LEI y with y[1] = 1 (R213), the only instruction that sets EN[1] (R24, R26). -/
def isEnablingLei (b1 b2 : Byte) : Bool := b1 == 0x33#8 && b2.extractLsb' 4 4 == 6#4 && b2.getLsbD 1

/-- R305: at some address the image (as a function that reads a word) holds an LEI that sets EN[1], so that the program can
enable the interrupt. Bytes that are only data count too (entry 20). -/
def imageEnablesInterrupt (read : RomAddr → Byte) : Bool :=
  (List.range 2048).any fun a => isEnablingLei (read (BitVec.ofNat 11 a)) (read (BitVec.ofNat 11 (a + 1)))

/-- R303, R305, U5: the ROM image starts with CLRA, and the word at the interrupt entry is a NOP if the image can enable the
interrupt (entry 20). -/
def romImageWellFormed (read : RomAddr → Byte) : Bool :=
  read 0#11 == 0x00#8 && (!imageEnablesInterrupt read || read 0x0FF#11 == 0x44#8)

end Sys2Proof
end

