-- ==== Sys2Proof/Decode.lean ====
section
/-! DEFINITION. The decoder (R100 to R114), total on any bytes and rejecting by name; the facts about an instruction
that its opcode alone decides (length, cycles, groups); the encoder, from the same tables. -/

namespace Sys2Proof

/-- Why bytes are no instruction. -/
inductive DecodeError
  /-- There is no byte to decode, or the second byte of a two-byte instruction is missing. -/
  | endOfBytes
  /-- R111 (a): a second byte after 33 that Table 3 does not list. -/
  | undefinedSecondByte (b2 : Byte)
deriving DecidableEq, Repr

/-- R100: the first bytes of two-byte instructions. -/
def isTwoByte (b1 : Byte) : Bool :=
  b1 == 0x23#8 || b1 == 0x33#8 || (0x60 ≤ b1.toNat && b1.toNat ≤ 0x6F)

/-- `in23` of R106, of the address that follows the byte. Addresses here and in the choices of R116 are those that reach
the ROM of the part (R71); State.pageContext reduces PC + 1 to one. -/
def inPages23 (npc : RomAddr) : Bool := npc.extractLsb' 7 4 == 0b0001#4

/-- R106, R107: the first bytes with bit 7 = 1. -/
def decodeHigh (in23 : Bool) (b : Byte) : Instr :=
  if b == 0xBF#8 then .lqid
  else if b == 0xFF#8 then .jid
  else if in23 then .jpPages23 (b.extractLsb' 0 7)
  else if b.getLsbD 6 then .jpPage (b.extractLsb' 0 6)
  else .jsrp (b.extractLsb' 0 6)

/-- R108, rows 0 to 3 and columns 0 to 3: sixteen fixed codes (23 and 33 are no one-byte instructions). -/
def decodeCorner (b : Byte) : Instr :=
  match b.toNat with
  | 0x00 => .clra | 0x01 => .skmbz0 | 0x02 => .xor | 0x03 => .skmbz2
  | 0x10 => .casc | 0x11 => .skmbz1 | 0x12 => .xabr | 0x13 => .skmbz3
  | 0x20 => .skc | 0x21 => .ske | 0x22 => .sc
  | 0x30 => .asc | 0x31 => .add
  | _ => .rc

/-- R108, rows 0 to 3: the r field in bits 5:4, the column in bits 3:0. -/
def decodeLow (b : Byte) : Instr :=
  let r := b.extractLsb' 4 2
  let n := b.extractLsb' 0 4
  if b.getLsbD 3 then .lbiShort r (n + 1#4)
  else if n == 4#4 then .xis r
  else if n == 5#4 then .ld r
  else if n == 6#4 then .x r
  else if n == 7#4 then .xds r
  else decodeCorner b

/-- R108, row 4. -/
def decodeRow4 (b : Byte) : Instr :=
  match b.toNat with
  | 0x40 => .comp | 0x41 => .skt | 0x42 => .rmb2 | 0x43 => .rmb3
  | 0x44 => .nop | 0x45 => .rmb1 | 0x46 => .smb2 | 0x47 => .smb1
  | 0x48 => .ret | 0x49 => .retsk | 0x4A => .adt | 0x4B => .smb3
  | 0x4C => .rmb0 | 0x4D => .smb0 | 0x4E => .cba
  | _ => .xas

/-- R108: a one-byte instruction. Row 5 is AISC but for 50, which is CAB (R112); row 7 is STII. -/
def decodeOne (in23 : Bool) (b : Byte) : Instr :=
  if b.getLsbD 7 then decodeHigh in23 b
  else if b.extractLsb' 4 4 == 7#4 then .stii (b.extractLsb' 0 4)
  else if b == 0x50#8 then .cab
  else if b.extractLsb' 4 4 == 5#4 then .aisc (b.extractLsb' 0 4)
  else if b.extractLsb' 4 4 == 4#4 then decodeRow4 b
  else decodeLow b

/-- R110: the second byte after 33. The d of the two-byte LBI is its low four bits, "stored unchanged" (R212): 33 8F is
LBI 0,15, although an aside of R212 has it load 00 (DEDUCED, entry 49). -/
def decodeAfter33 (b2 : Byte) : Except DecodeError Instr :=
  if b2.getLsbD 7 then .ok (.lbiLong (b2.extractLsb' 4 3) (b2.extractLsb' 0 4))
  else if b2.extractLsb' 4 4 == 5#4 then .ok (.ogi (b2.extractLsb' 0 4))
  else if b2.extractLsb' 4 4 == 6#4 then .ok (.lei (b2.extractLsb' 0 4))
  else match b2.toNat with
  | 0x01 => .ok .skgbz0 | 0x03 => .ok .skgbz2 | 0x11 => .ok .skgbz1 | 0x13 => .ok .skgbz3
  | 0x21 => .ok .skgz
  | 0x28 => .ok .inin | 0x29 => .ok .inil | 0x2A => .ok .ing
  | 0x2C => .ok .cqma | 0x2E => .ok .inl | 0x2F => .ok .ctma
  | 0x38 => .ok .halt | 0x39 => .ok .it | 0x3A => .ok .omg
  | 0x3C => .ok .camq | 0x3E => .ok .obd | 0x3F => .ok .camt
  | _ => .error (.undefinedSecondByte b2)

/-- R109, R110 and R108's JMP and JSR: a two-byte instruction. -/
def decodeTwo (b1 b2 : Byte) : Except DecodeError Instr :=
  if b1 == 0x33#8 then decodeAfter33 b2
  else if b1 == 0x23#8 then
    if b2.getLsbD 7 then .ok (.xad (b2.extractLsb' 4 3) (b2.extractLsb' 0 4))
    else .ok (.ldd (b2.extractLsb' 4 3) (b2.extractLsb' 0 4))
  else if b1.getLsbD 3 then .ok (.jsr (b1.extractLsb' 0 3 ++ b2))
  else .ok (.jmp (b1.extractLsb' 0 3 ++ b2))

/-- R114: the instruction at the head of the bytes and the bytes after it. `in23` is the context of R106. -/
def decode (in23 : Bool) : List Byte → Except DecodeError (Instr × List Byte)
  | [] => .error .endOfBytes
  | b1 :: rest =>
    if isTwoByte b1 then
      match rest with
      | [] => .error .endOfBytes
      | b2 :: rest' =>
        match decodeTwo b1 b2 with
        | .ok i => .ok (i, rest')
        | .error e => .error e
    else .ok (decodeOne in23 b1, rest)

/-- The length in bytes (R100, the table's `length`). -/
def Instr.length : Instr → Nat
  | .jmp _ | .jsr _ | .halt | .it
  | .camt | .ctma | .camq | .cqma | .ldd _ _ | .xad _ _
  | .lbiLong _ _ | .lei _
  | .skgz | .skgbz0 | .skgbz1 | .skgbz2 | .skgbz3
  | .ing | .inin | .inil | .inl | .obd | .ogi _ | .omg => 2
  | .asc | .add | .adt | .aisc _ | .casc | .clra | .comp | .nop | .rc | .sc | .xor
  | .jid | .jpPages23 _ | .jpPage _ | .jsrp _ | .ret | .retsk
  | .ld _ | .lqid | .rmb0 | .rmb1 | .rmb2 | .rmb3 | .smb0 | .smb1 | .smb2 | .smb3
  | .stii _ | .x _ | .xds _ | .xis _
  | .cab | .cba | .lbiShort _ _ | .xabr
  | .skc | .ske | .skmbz0 | .skmbz1 | .skmbz2 | .skmbz3 | .skt | .xas => 1

/-- R120: the instruction cycles of an executed instruction. A skipped one takes `length`. -/
def Instr.cycles (i : Instr) : Nat :=
  match i with
  | .jid | .lqid => 2
  | _ => i.length

/-- R254 (d): Table 3's group of transfer of control instructions. -/
def Instr.isTransferOfControl : Instr → Bool
  | .jid | .jmp _ | .jpPages23 _ | .jpPage _ | .jsrp _ | .jsr _ | .ret | .retsk | .halt | .it => true
  | _ => false

/-- R119: an LBI in either encoding. -/
def Instr.isLbi : Instr → Bool
  | .lbiShort _ _ | .lbiLong _ _ => true
  | _ => false

/-- R261: the instruction whose own cycles do not advance the time base. -/
def Instr.isCamt : Instr → Bool
  | .camt => true
  | _ => false

/-- The bytes of an instruction, the first at the lower address (R77, R101 to R110). -/
def encode : Instr → List Byte
  | .asc => [0x30#8] | .add => [0x31#8] | .adt => [0x4A#8]
  | .aisc y => [5#4 ++ y]
  | .casc => [0x10#8] | .clra => [0x00#8] | .comp => [0x40#8] | .nop => [0x44#8]
  | .rc => [0x32#8] | .sc => [0x22#8] | .xor => [0x02#8]
  | .jid => [0xFF#8]
  | .jmp a => [0b01100#5 ++ a.extractLsb' 8 3, a.extractLsb' 0 8]
  | .jpPages23 a => [1#1 ++ a]
  | .jpPage a => [0b11#2 ++ a]
  | .jsrp a => [0b10#2 ++ a]
  | .jsr a => [0b01101#5 ++ a.extractLsb' 8 3, a.extractLsb' 0 8]
  | .ret => [0x48#8] | .retsk => [0x49#8]
  | .halt => [0x33#8, 0x38#8] | .it => [0x33#8, 0x39#8]
  | .camt => [0x33#8, 0x3F#8] | .ctma => [0x33#8, 0x2F#8]
  | .camq => [0x33#8, 0x3C#8] | .cqma => [0x33#8, 0x2C#8]
  | .ld r => [0b00#2 ++ r ++ 5#4]
  | .ldd r d => [0x23#8, 0#1 ++ r ++ d]
  | .lqid => [0xBF#8]
  | .rmb0 => [0x4C#8] | .rmb1 => [0x45#8] | .rmb2 => [0x42#8] | .rmb3 => [0x43#8]
  | .smb0 => [0x4D#8] | .smb1 => [0x47#8] | .smb2 => [0x46#8] | .smb3 => [0x4B#8]
  | .stii y => [7#4 ++ y]
  | .x r => [0b00#2 ++ r ++ 6#4]
  | .xad r d => [0x23#8, 1#1 ++ r ++ d]
  | .xds r => [0b00#2 ++ r ++ 7#4]
  | .xis r => [0b00#2 ++ r ++ 4#4]
  | .cab => [0x50#8] | .cba => [0x4E#8]
  | .lbiShort r d => [0b00#2 ++ r ++ (d - 1#4)]
  | .lbiLong r d => [0x33#8, 1#1 ++ r ++ d]
  | .lei y => [0x33#8, 6#4 ++ y]
  | .xabr => [0x12#8]
  | .skc => [0x20#8] | .ske => [0x21#8] | .skgz => [0x33#8, 0x21#8]
  | .skgbz0 => [0x33#8, 0x01#8] | .skgbz1 => [0x33#8, 0x11#8]
  | .skgbz2 => [0x33#8, 0x03#8] | .skgbz3 => [0x33#8, 0x13#8]
  | .skmbz0 => [0x01#8] | .skmbz1 => [0x11#8] | .skmbz2 => [0x03#8] | .skmbz3 => [0x13#8]
  | .skt => [0x41#8]
  | .ing => [0x33#8, 0x2A#8] | .inin => [0x33#8, 0x28#8] | .inil => [0x33#8, 0x29#8]
  | .inl => [0x33#8, 0x2E#8] | .obd => [0x33#8, 0x3E#8]
  | .ogi y => [0x33#8, 5#4 ++ y]
  | .omg => [0x33#8, 0x3A#8]
  | .xas => [0x4F#8]

/-- R116: the encoding of LBI r,d, one byte where it has one. -/
def chooseLbi (r : BitVec 3) (d : Digit) : Instr :=
  if r.toNat < 4 && (d == 0#4 || 9 ≤ d.toNat) then .lbiShort (r.extractLsb' 0 2) d else .lbiLong r d

/-- R116: the encoding of a JP that stands before `npc`, if the target can be reached and is not the last word of a
page. -/
def chooseJp (npc target : RomAddr) : Option Instr :=
  if target.extractLsb' 0 6 == 0x3F#6 then none
  else if inPages23 npc then
    if inPages23 target then some (.jpPages23 (target.extractLsb' 0 7)) else none
  else if target.extractLsb' 6 5 == npc.extractLsb' 6 5 then some (.jpPage (target.extractLsb' 0 6))
  else none

/-- R116: the encoding of a JSRP that stands before `npc`, outside pages 2 and 3 and with a target from 080 to 0BE. -/
def chooseJsrp (npc target : RomAddr) : Option Instr :=
  if !inPages23 npc && target.extractLsb' 6 5 == 0b00010#5 && target.extractLsb' 0 6 != 0x3F#6 then
    some (.jsrp (target.extractLsb' 0 6))
  else none

/-- The bytes of a word numbered as spec/opcode_table.json numbers it (30_encoding.md, conventions): a one-byte row
is bits 7:0; a two-byte row has byte1, the byte at the lower address, in bits 15:8 and byte2 in bits 7:0. The bytes
up to the longest instruction, two, are filled with 0. -/
def tableWordBytes (nbits w : Nat) : List Byte :=
  if nbits ≤ 8 then [BitVec.ofNat 8 w, 0#8]
  else [BitVec.ofNat 8 (w / 256), BitVec.ofNat 8 w]

/-- The instruction that the decoder reads from a word of the opcode table, in the page context of ROM address 0
(outside pages 2 and 3), the address at which the machine fetches after reset (entry 23). -/
def decodeTableWord (nbits w : Nat) : Option Instr :=
  match decode false (tableWordBytes nbits w) with
  | .ok (i, _) => some i
  | .error _ => none

end Sys2Proof
end

