-- ==== Sys2Proof/Machine/State.lean ====
section
/-! DEFINITION. The machine's state as plain data (10_state.md), the environment's events (R51), the reasons a step
can stop, and the state right after reset (R55, R301). -/

namespace Sys2Proof.Machine

/-- A memory of w-bit cells: (address, value) pairs with strictly rising addresses. An address that is not listed
holds no value of its own. `Memory 8` is a list of `Host.Cell`. -/
abbrev Memory (w : Nat) := List (Nat × BitVec w)

/-- What the outside causes between two instruction steps (R51). A pulse is a "1" to "0" transition that stays low
for at least two instruction cycles. -/
inductive Event
  /-- Nothing happens before the next machine step. -/
  | quiet
  /-- `PulseIN0` (R30). -/
  | pulseIN0
  /-- `PulseIN1` (R253). -/
  | pulseIN1
  /-- `PulseIN2` (R264). -/
  | pulseIN2
  /-- `PulseIN3` (R30). -/
  | pulseIN3
  /-- `PulseSI` (R275). -/
  | pulseSI
  /-- `Reset` of a running chip (R301): RAM keeps its contents. -/
  | resetPin
  /-- `Reset` by power-up (R300): RAM contents are lost, and with option 29 = 1 nothing is initialized. -/
  | powerUp
  /-- `HaltForce`: CKO forced high (R268). -/
  | haltForce
  /-- `Continue`: CKO forced low (R270). -/
  | continueRun
  /-- `ClockStop`: the outside stops the clock on CKI (R268). -/
  | clockStop
  /-- `ClockStart`: the outside restarts it (R268). -/
  | clockStart
  /-- `HostWrite(v)` (R278). -/
  | hostWrite (v : Byte)
  /-- `HostRead` (R279). -/
  | hostRead
deriving DecidableEq, Repr

/-- The state of the machine: every register of 10_state.md, the two memories, the configuration (constant in every
run) and the model's own account of the environment. -/
structure State where
  /-- The configuration (R6). -/
  cfg : Config
  /-- The mask-programmed ROM words that are given (R44, R70); entry 2. -/
  rom : Memory 8
  /-- The RAM digits written so far (R43, R73); entry 3. -/
  ram : Memory 4
  /-- A (R20). -/
  a : Digit
  /-- B (R21): Br in bits 6:4, Bd in bits 3:0; on 1K parts bit 6 does not exist (read it through `regB`). -/
  b : BitVec 7
  /-- C (R22). -/
  c : Bool
  /-- D (R23). -/
  d : Digit
  /-- EN (R24). -/
  en : Digit
  /-- G (R29). -/
  g : Digit
  /-- IL3 (R30). -/
  il3 : Bool
  /-- IL0 (R30). -/
  il0 : Bool
  /-- Q (R33). -/
  q : Byte
  /-- SIO (R34). -/
  sio : Digit
  /-- SKL (R35). -/
  skl : Bool
  /-- T (R38). -/
  t : Byte
  /-- TP, the prescaler (R39). -/
  tp : BitVec 2
  /-- TOV, the timer overflow latch (R40). -/
  tov : Bool
  /-- PC (R41). -/
  pc : RomAddr
  /-- SA, the top of the stack (R42). -/
  sa : RomAddr
  /-- SB (R42). -/
  sb : RomAddr
  /-- SC, the bottom of the stack (R42). -/
  sc : RomAddr
  /-- SKIP (R45). -/
  skip : Bool
  /-- LBICHAIN (R46). -/
  lbiChain : Bool
  /-- SSKIP, the skip status saved by an interrupt (R47). -/
  sskip : Bool
  /-- INTREQ (R48). -/
  intReq : Bool
  /-- The HALT flip-flop; HALTED (R49) is `halted || clockStopped`. -/
  halted : Bool
  /-- The clock is stopped from outside (R268 c). -/
  clockStopped : Bool
  /-- IDLE (R50). -/
  idle : Bool
  /-- The model's own: the events still to come, in order (entry 7). -/
  events : List Event
  /-- The model's own: the pin levels of the coming samples (entry 8). -/
  pinQueue : List Pins
  /-- The model's own: how many samples and free values have been taken (entry 8). -/
  freeIndex : Nat
  /-- The model's own: the number of the power-up whose RAM contents unwritten digits show (entry 28). -/
  ramEpoch : Nat
deriving DecidableEq, Repr

/-- Why the machine stops without a next state where the spec gives an encoding or a form no behaviour. -/
inductive Fault
  /-- Raised by the fetch (Machine/Sequence.lean): the bytes are no instruction (R111 a, U2). Safe: the hardware does
  something the spec does not say. -/
  | undefinedEncoding (e : DecodeError)
  /-- Raised by LDD, XAD and the two-byte LBI on a 1K part with r above 3 (R111 b, U3). Safe, for the same reason. -/
  | noSuchRamRegister (r : BitVec 3)
  /-- Raised by IT with the external event counter (R168, R312, U6). Safe, for the same reason. -/
  | idleWithEventCounter
deriving DecidableEq, Repr

/-- Why an instruction is given no meaning. -/
inductive Refusal
  /-- Raised by an arm of exec for an instruction that has no meaning yet. Safe. -/
  | notModelled (mnemonic : String)
  /-- Raised by ININ on a part without IN pins (R231, U8, D22). Safe: the spec calls it "not available". -/
  | noInPins
deriving DecidableEq, Repr

/-- What a meaning answers. -/
abbrev Result := Host.Outcome State Fault Refusal

/-- The configuration that State.reset describes: an ETC9444 with every mask option at its default 0, the open
parameters unknown (entries 1 and 6), but for `TICK_PHASE` at the spec's default (U16, entry 19). -/
def initialConfig : Config :=
  { part := .etc9444, options := {}, params := { Config.openParams with tickPhase := {} } }

/-- The machine right after power-up and reset (R55, R301). Unspecified registers hold unknown constants (entry 4). -/
def State.reset : State where
  cfg := initialConfig
  rom := []
  ram := []
  a := 0#4
  b := 0#7
  c := false
  d := 0#4
  en := 0#4
  g := 0#4
  il3 := false
  il0 := false
  q := (Config.resetUnspecified 0).q
  sio := (Config.resetUnspecified 0).sio
  skl := true
  t := 0#8
  tp := 0#2
  tov := (Config.resetUnspecified 0).tov
  pc := 0#11
  sa := (Config.resetUnspecified 0).sa
  sb := (Config.resetUnspecified 0).sb
  sc := (Config.resetUnspecified 0).sc
  skip := false
  lbiChain := false
  sskip := false
  intReq := false
  halted := false
  clockStopped := false
  idle := false
  events := []
  pinQueue := []
  freeIndex := 0
  ramEpoch := 0

end Sys2Proof.Machine
end

