-- ==== Sys2Proof/Machine/Ops.lean ====
section
/-! DEFINITION. The shared operations: the two memories (R70 to R75), register B (R21), the stack (R42), the skip
latch (R10), samples of the environment (R51), the per-cycle tick (R261), taking the interrupt and the pop that
returns from it (R255, R258), halting (R268), and placing a program in ROM. -/

namespace Sys2Proof.Machine

/-! ### Memories -/

/-- The value an address holds, if it is listed. -/
def Memory.lookup {w : Nat} : Memory w → Nat → Option (BitVec w)
  | [], _ => none
  | (k, v) :: m, i => if k = i then some v else Memory.lookup m i

/-- The memory with a value stored at an address, in the one canonical form. -/
def Memory.store {w : Nat} : Memory w → Nat → BitVec w → Memory w
  | [], i, v => [(i, v)]
  | (k, x) :: m, i, v =>
    if i < k then (i, v) :: (k, x) :: m
    else if i = k then (i, v) :: m
    else (k, x) :: Memory.store m i v

/-- Every listed address is at least `lo` and below `hi`, and the addresses rise strictly. -/
def Memory.within {w : Nat} (hi : Nat) : Nat → Memory w → Bool
  | _, [] => true
  | lo, (k, _) :: m => lo ≤ k && k < hi && Memory.within hi (k + 1) m

/-- The canonical form: strictly rising addresses, all inside a memory of `size` cells. An unlisted address holds no
value (entries 2 and 3), so no entry can equal what an unlisted one holds. -/
def Memory.wf {w : Nat} (size : Nat) (m : Memory w) : Bool := Memory.within size 0 m

/-- `MemRead(addr, 1)` (R73): the digit at an address; one that nothing has written reads as the unknown power-up
contents (R43, U1, entry 3). -/
def State.readDigit (s : State) (i : Nat) : Digit :=
  (Memory.lookup s.ram i).getD (Config.powerUpDigit s.ramEpoch i)

/-- `MemWrite(addr, 1, v)` (R73). -/
def State.writeDigit (s : State) (i : Nat) (v : Digit) : State :=
  { s with ram := Memory.store s.ram i v }

/-- Where a ROM address lies in the ROM of the part (R71): bit 10 is ignored on 1K parts. -/
def State.romIndex (s : State) (i : RomAddr) : Nat := i.toNat % s.cfg.part.romBytes

/-- The address that reaches the ROM of the part: without bit 10 on 1K parts (R71). -/
def State.reduceAddr (s : State) (i : RomAddr) : RomAddr := BitVec.ofNat 11 (s.romIndex i)

/-- `RomRead(addr)` (R70, R71); a word that is not listed is the unknown mask-programmed one (entry 2). -/
def State.romRead (s : State) (i : RomAddr) : Byte :=
  (Memory.lookup s.rom (s.romIndex i)).getD (Config.maskRomByte (s.romIndex i))

/-- The mask programming of one ROM word, from outside the machine (R44, entry 2). No instruction does this. -/
def State.programByte (s : State) (i : RomAddr) (v : Byte) : State :=
  { s with rom := Memory.store s.rom (s.romIndex i) v }

/-! ### Register B -/

/-- The bits of a 7-bit value that register B of the part has (R21). -/
def State.fitB (s : State) (v : BitVec 7) : BitVec 7 :=
  if s.cfg.part.is2K then v else v &&& 0x3F#7

/-- Register B, zero-extended to 7 bits on a 1K part. -/
def State.regB (s : State) : BitVec 7 := s.fitB s.b

/-- Load register B. -/
def State.setB (s : State) (v : BitVec 7) : State := { s with b := s.fitB v }

/-! ### Stack and skip latch -/

/-- `push(v)` (R10, R42). -/
def State.push (s : State) (v : RomAddr) : State :=
  { s with sc := s.sb, sb := s.sa, sa := v }

/-- The parallel part of `pop()` (R10, R42): SC keeps its value (D9, entry 36). -/
def State.popAddress (s : State) : State :=
  { s with pc := s.sa, sa := s.sb, sb := s.sc }

/-- `SKIP <- SSKIP; SSKIP <- 0` if the condition holds (R258, entry 35). -/
def State.restoreSkipIf (s : State) (p : Bool) : State :=
  { s with skip := if p then s.sskip else s.skip, sskip := s.sskip && !p }

/-- `pop()` (R10): the return from a subroutine and from the interrupt (R259). -/
def State.pop (s : State) : State := s.popAddress.restoreSkipIf true

/-- `if p then skip()` (R10). -/
def State.skipIf (s : State) (p : Bool) : State := { s with skip := s.skip || p }

/-! ### Samples of the environment and free values -/

/-- The pin levels at the next sample (R51): the queue's first, else free (entry 8). The level of G0 is free under MICROBUS
too, where R280 says that it follows G[0]. DESIGN CHOICE (entry 51). -/
def State.sample (s : State) : Pins :=
  match s.pinQueue with
  | [] => Config.pinLevels s.freeIndex
  | p :: _ => p

/-- The next sample has been taken. -/
def State.takeSample (s : State) : State :=
  { s with pinQueue := s.pinQueue.tail, freeIndex := s.freeIndex + 1 }

/-- A free value numbered `freeIndex` has been taken. -/
def State.takeFree (s : State) : State := { s with freeIndex := s.freeIndex + 1 }

/-! ### The per-cycle tick (R261) -/

/-- One count of T (R263, R264) if the condition holds: the step from FF to 00 sets TOV. -/
def State.countIf (s : State) (p : Bool) : State :=
  { s with
    t := if p then s.t + 1#8 else s.t
    tov := s.tov || (p && s.t == 0xFF#8) }

/-- The time-base tick (R263): the prescaler's step from 3 to 0 counts T, and the overflow of T ends IDLE. DESIGN CHOICE
(entry 50): in dual-clock mode too it counts one for each instruction cycle, whichever oscillator runs (R282, N28). -/
def State.timeBase (s : State) : State :=
  if s.cfg.options.timer = .timeBase then
    { s.countIf (s.tp == 3#2) with
      tp := s.tp + 1#2
      idle := s.idle && !(s.tp == 3#2 && s.t == 0xFF#8) }
  else s

/-- The serial tick (R274): with EN[0] = 0, SIO shifts left and takes SI into bit 0. -/
def State.serial (s : State) : State :=
  if s.en.getLsbD 0 then s
  else { s.takeSample with sio := s.sio.extractLsb' 0 3 ++ BitVec.ofBool s.sample.si }

/-- `Tick()` in a cycle of an instruction or of the interrupt entry (R261). `camt`: the cycle belongs to an executed
CAMT, which does not advance the time base (R266, entry 19). -/
def State.tick (camt : Bool) (s : State) : State :=
  if camt then s.serial else s.timeBase.serial

/-- n ticks. -/
def State.ticks (camt : Bool) : Nat → State → State
  | 0, s => s
  | n + 1, s => State.ticks camt n (s.tick camt)

/-! ### The interrupt and halting -/

/-- What `Interrupt` (R255) writes before its cycles pass: the return address and the skip status saved, EN[1] and
the request cleared, PC at 0FF. -/
def State.enterInterrupt (s : State) : State :=
  { s.push s.pc with
    sskip := s.skip
    skip := false
    en := s.en &&& 0b1101#4
    intReq := false
    pc := 0x0FF#11 }

/-- Taking the interrupt (R255): the entry and its `INT_ENTRY_CYCLES` ticks (D29). -/
def State.interrupt (s : State) : State :=
  State.ticks false s.cfg.params.intEntryCycles s.enterInterrupt

/-- A HALT request by instruction or pin (R268 a, b). Under option 30 = 2 the environment says whether the D0 clock
is running, and if it is, HALT is not entered (R271, U14, entry 16). -/
def State.requestHalt (s : State) : State :=
  if s.cfg.options.dualClock = .d0ExternalClock then
    { s.takeSample with halted := s.halted || !s.sample.d0Clock }
  else { s with halted := true }

/-- HALTED (R49). -/
def State.isHalted (s : State) : Bool := s.halted || s.clockStopped

/-! ### Placing an instruction -/

/-- The state with bytes mask-programmed from an address on. -/
def State.programBytes (s : State) : RomAddr → List Byte → State
  | _, [] => s
  | i, v :: vs => (s.programByte i v).programBytes (i + 1#11) vs

/-- The state in which the next machine step fetches at PC and executes: no event first, running, nothing to skip,
no interrupt requested (entry 24). -/
def State.readyToFetch (s : State) : State :=
  { s with
    events := [], halted := false, clockStopped := false, idle := false
    skip := false, lbiChain := false, intReq := false }

end Sys2Proof.Machine
end

