-- ==== Sys2Proof/Machine/Operands.lean ====
section
/-! DEFINITION. The operand forms (R10, R74, R75, R78, R194): the fields of B, the digit M, the direct RAM address,
the ROM table address, the two halves of an 8-bit quantity, and what the part has (R6, R103). -/

namespace Sys2Proof.Machine

/-- Br (R10, R21), zero-extended to three bits on 1K parts. -/
def State.br (s : State) : BitVec 3 := s.regB.extractLsb' 4 3

/-- Bd (R10, R21). -/
def State.bd (s : State) : Digit := s.regB.extractLsb' 0 4

/-- Load both fields of B. -/
def State.setBrBd (s : State) (r : BitVec 3) (d : Digit) : State := s.setB (r ++ d)

/-- The digit address B selects (R73). -/
def State.ramAddr (s : State) : Nat := s.regB.toNat

/-- M, the digit that B addresses (R10, R74). -/
def State.m (s : State) : Digit := s.readDigit s.ramAddr

/-- `M <- v`. -/
def State.setM (s : State) (v : Digit) : State := s.writeDigit s.ramAddr v

/-- The digit address of the operand r.d: r * 16 + d (R75). -/
def directAddr (r : BitVec 3) (d : Digit) : Nat := r.toNat * 16 + d.toNat

/-- R103: a two-bit r, zero-extended to Br. -/
def zextR (r : BitVec 2) : BitVec 3 := 0#1 ++ r

/-- The ROM address `npc[10:8] : A : M` of LQID and JID (R160, R186, R194 e). -/
def State.tableAddr (s : State) : RomAddr := s.pc.extractLsb' 8 3 ++ s.a ++ s.m

/-- Bits 7:4 of an 8-bit quantity (R78). -/
def hiDigit (v : Byte) : Digit := v.extractLsb' 4 4

/-- Bits 3:0 of an 8-bit quantity (R78). -/
def loDigit (v : Byte) : Digit := v.extractLsb' 0 4

/-- `hi : lo`. -/
def joinDigits (hi lo : Digit) : Byte := hi ++ lo

/-- The copy of an 8-bit quantity to M and A (R78: CTMA, CQMA, INL): bits 7:4 to M, bits 3:0 to A. -/
def State.setMA (s : State) (v : Byte) : State := { s.setM (hiDigit v) with a := loDigit v }

/-- `HAS_IN` (R6): the chip has the IN pins. -/
def State.hasIn (s : State) : Bool := s.cfg.hasIn

/-- R103, R111 (b): the three-bit r names a data register of the part. -/
def State.hasRegister (s : State) (r : BitVec 3) : Bool := s.cfg.part.is2K || r.toNat < 4

end Sys2Proof.Machine
end

