-- ==== Sys2Proof/Machine/Flags.lean ====
section
/-! DEFINITION. The 4-bit adder and every flag computation (R151): the exact sum, its low digit, its carry, and the
skip conditions that are computed from values. -/

namespace Sys2Proof.Machine

/-- The exact sum of two digits and a carry, 0 to 31 (R140, R144). -/
def exactSum (u v : Digit) (cin : Bool) : Nat := u.toNat + v.toNat + cin.toNat

/-- The sum modulo 16. -/
def sumDigit (u v : Digit) (cin : Bool) : Digit := BitVec.ofNat 4 (exactSum u v cin)

/-- The carry out of bit 3. -/
def sumCarry (u v : Digit) (cin : Bool) : Bool := 16 ≤ exactSum u v cin

/-- "Bd Increments Past 15" (R193), of the old Bd. -/
def incrementsPast15 (d : Digit) : Bool := d == 15#4

/-- "Bd Decrements Past 0" (R192), of the old Bd. -/
def decrementsPast0 (d : Digit) : Bool := d == 0#4

/-- Bit n of a digit is zero (R223, R224). -/
def bitIsZero (v : Digit) (n : Nat) : Bool := !v.getLsbD n

/-- A digit with bit n reset (R187). -/
def resetBit (v : Digit) (n : Nat) : Digit := v &&& ~~~(1#4 <<< n)

/-- A digit with bit n set (R188). -/
def setBit (v : Digit) (n : Nat) : Digit := v ||| (1#4 <<< n)

end Sys2Proof.Machine
end

