-- ==== Sys2Proof/Machine/Arithmetic.lean ====
section
/-! DEFINITION. The arithmetic instructions (41_arithmetic.md).
A meaning is run with PC = npc, the address after the instruction's last byte (R117). -/

namespace Sys2Proof.Machine

/-- ASC (R140). -/
def execAsc (s : State) : Result :=
  .next ({ s with a := sumDigit s.a s.m s.c, c := sumCarry s.a s.m s.c }.skipIf (sumCarry s.a s.m s.c))

/-- ADD (R141). -/
def execAdd (s : State) : Result := .next { s with a := sumDigit s.a s.m false }

/-- ADT (R142). -/
def execAdt (s : State) : Result := .next { s with a := sumDigit s.a 10#4 false }

/-- AISC y (R143). -/
def execAisc (y : Digit) (s : State) : Result :=
  .next ({ s with a := sumDigit s.a y false }.skipIf (sumCarry s.a y false))

/-- CASC (R144). -/
def execCasc (s : State) : Result :=
  .next ({ s with a := sumDigit (~~~s.a) s.m s.c, c := sumCarry (~~~s.a) s.m s.c }.skipIf
    (sumCarry (~~~s.a) s.m s.c))

/-- CLRA (R145). -/
def execClra (s : State) : Result := .next { s with a := 0#4 }

/-- COMP (R146). -/
def execComp (s : State) : Result := .next { s with a := ~~~s.a }

/-- NOP (R147). -/
def execNop (s : State) : Result := .next s

/-- RC (R148). -/
def execRc (s : State) : Result := .next { s with c := false }

/-- SC (R149). -/
def execSc (s : State) : Result := .next { s with c := true }

/-- XOR (R150). -/
def execXor (s : State) : Result := .next { s with a := s.a ^^^ s.m }

end Sys2Proof.Machine
end

