-- ==== Sys2Proof/Machine/InputOutput.lean ====
section
/-! DEFINITION. The input/output instructions (46_input_output.md). Pins are samples of the environment (D16, entry 8).
A meaning is run with PC = npc, the address after the instruction's last byte (R117). -/

namespace Sys2Proof.Machine

/-- ING (R230). -/
def execIng (s : State) : Result := .next { s.takeSample with a := s.sample.g }

/-- ININ (R231); not available without IN pins (U8, D22, entry 14). -/
def execInin (s : State) : Result :=
  if s.hasIn then .next { s.takeSample with a := s.sample.inp }
  else .refused .noInPins

/-- Option 2 makes CKO a general purpose input (R54). -/
def State.ckoIsInput (s : State) : Bool :=
  match s.cfg.options.cko with
  | .inputWithLoad | .inputHighZ => true
  | .clockOutput | .haltPort => false

/-- What INIL puts into A[2] (R232): the level of CKO where it is a general purpose input, else 1 (D24, entry 38). -/
def State.ilCko (s : State) : Bool := if s.ckoIsInput then s.sample.cko else true

/-- What INIL puts into A[3] and A[0] (R232): the latches, or free bits without IN pins (U8, entry 14). -/
def State.ilLatches (s : State) : Bool × Bool :=
  if s.hasIn then (s.il3, s.il0) else Config.ilBits s.freeIndex

/-- What INIL takes from the environment: the level of CKO where it is an input, else at most a free value. -/
def State.takeInil (s : State) : State := if s.ckoIsInput then s.takeSample else s.takeFree

/-- INIL (R232). -/
def execInil (s : State) : Result :=
  .next { s.takeInil with
    a := BitVec.ofBool s.ilLatches.1 ++ BitVec.ofBool s.ilCko ++ 0#1 ++ BitVec.ofBool s.ilLatches.2
    il3 := false
    il0 := false }

/-- INL (R233). -/
def execInl (s : State) : Result := .next (s.takeSample.setMA s.sample.l)

/-- OBD (R234). -/
def execObd (s : State) : Result := .next { s with d := s.bd }

/-- OGI y (R235). -/
def execOgi (y : Digit) (s : State) : Result := .next { s with g := y }

/-- OMG (R236). -/
def execOmg (s : State) : Result := .next { s with g := s.m }

/-- XAS (R237). -/
def execXas (s : State) : Result := .next { s with a := s.sio, sio := s.a, skl := s.c }

end Sys2Proof.Machine
end

