-- ==== Sys2Proof/Machine/MemoryReference.lean ====
section
/-! DEFINITION. The memory reference instructions (43_memory_reference.md).
A meaning is run with PC = npc, the address after the instruction's last byte (R117). -/

namespace Sys2Proof.Machine

/-- CAMT (R180, R266). The old T[7] decides TOV (D12, entry 18). -/
def execCamt (s : State) : Result :=
  .next { s with t := joinDigits s.a s.m, tp := 0#2, tov := s.tov || s.t.getLsbD 7 }

/-- CTMA (R181). Under the dual clock the eight bits are free (R311, U7, entry 15). -/
def execCtma (s : State) : Result :=
  if s.cfg.options.dualClock = .normal then .next (s.setMA s.t)
  else .next (s.takeFree.setMA (Config.ctmaByte s.freeIndex))

/-- CAMQ (R182). -/
def execCamq (s : State) : Result := .next { s with q := joinDigits s.a s.m }

/-- CQMA (R183). -/
def execCqma (s : State) : Result := .next (s.setMA s.q)

/-- LD r (R184). -/
def execLd (r : BitVec 2) (s : State) : Result :=
  .next { s.setBrBd (s.br ^^^ zextR r) s.bd with a := s.m }

/-- LDD r,d (R185). -/
def execLdd (r : BitVec 3) (d : Digit) (s : State) : Result :=
  if s.hasRegister r then .next { s with a := s.readDigit (directAddr r d) }
  else .fault (.noSuchRamRegister r)

/-- LQID (R186): the push, the ROM read, the pop, and what `LQID_POP_RESTORES_SKIP` makes of the saved skip
(U9, entry 17). -/
def execLqid (s : State) : Result :=
  .next ({ s.push s.pc with q := s.romRead s.tableAddr }.popAddress.restoreSkipIf s.cfg.params.lqidPopRestoresSkip)

/-- RMB 0 (R187). -/
def execRmb0 (s : State) : Result := .next (s.setM (resetBit s.m 0))

/-- RMB 1 (R187). -/
def execRmb1 (s : State) : Result := .next (s.setM (resetBit s.m 1))

/-- RMB 2 (R187). -/
def execRmb2 (s : State) : Result := .next (s.setM (resetBit s.m 2))

/-- RMB 3 (R187). -/
def execRmb3 (s : State) : Result := .next (s.setM (resetBit s.m 3))

/-- SMB 0 (R188). -/
def execSmb0 (s : State) : Result := .next (s.setM (setBit s.m 0))

/-- SMB 1 (R188). -/
def execSmb1 (s : State) : Result := .next (s.setM (setBit s.m 1))

/-- SMB 2 (R188). -/
def execSmb2 (s : State) : Result := .next (s.setM (setBit s.m 2))

/-- SMB 3 (R188). -/
def execSmb3 (s : State) : Result := .next (s.setM (setBit s.m 3))

/-- STII y (R189). -/
def execStii (y : Digit) (s : State) : Result :=
  .next ((s.setM y).setBrBd s.br (s.bd + 1#4))

/-- X r (R190). -/
def execX (r : BitVec 2) (s : State) : Result :=
  .next { (s.setM s.a).setBrBd (s.br ^^^ zextR r) s.bd with a := s.m }

/-- XAD r,d (R191). -/
def execXad (r : BitVec 3) (d : Digit) (s : State) : Result :=
  if s.hasRegister r then
    .next { s.writeDigit (directAddr r d) s.a with a := s.readDigit (directAddr r d) }
  else .fault (.noSuchRamRegister r)

/-- XDS r (R192). -/
def execXds (r : BitVec 2) (s : State) : Result :=
  .next ({ (s.setM s.a).setBrBd (s.br ^^^ zextR r) (s.bd - 1#4) with a := s.m }.skipIf (decrementsPast0 s.bd))

/-- XIS r (R193). -/
def execXis (r : BitVec 2) (s : State) : Result :=
  .next ({ (s.setM s.a).setBrBd (s.br ^^^ zextR r) (s.bd + 1#4) with a := s.m }.skipIf (incrementsPast15 s.bd))

end Sys2Proof.Machine
end

