-- ==== Sys2Proof/Machine/RegisterReference.lean ====
section
/-! DEFINITION. The register reference instructions (44_register_reference.md).
A meaning is run with PC = npc, the address after the instruction's last byte (R117). -/

namespace Sys2Proof.Machine

/-- CAB (R210). -/
def execCab (s : State) : Result := .next (s.setBrBd s.br s.a)

/-- CBA (R211). -/
def execCba (s : State) : Result := .next { s with a := s.bd }

/-- LBI r,d, one-byte form (R212): Br[2] <- 0 (D26, entry 40). LBICHAIN is set by the sequencing (R117 step 5). -/
def execLbiShort (r : BitVec 2) (d : Digit) (s : State) : Result := .next (s.setBrBd (zextR r) d)

/-- LBI r,d, two-byte form (R212): Br <- r, Bd <- d. Its aside that 33 8F loads 00 is not followed (DEDUCED, entry 49). -/
def execLbiLong (r : BitVec 3) (d : Digit) (s : State) : Result :=
  if s.hasRegister r then .next (s.setBrBd r d) else .fault (.noSuchRamRegister r)

/-- LEI y (R213). -/
def execLei (y : Digit) (s : State) : Result := .next { s with en := y }

/-- XABR (R214): Br takes the low BR_BITS bits of A, and A takes Br zero-extended. -/
def execXabr (s : State) : Result :=
  .next { s.setBrBd (s.a.extractLsb' 0 3) s.bd with a := 0#1 ++ s.br }

end Sys2Proof.Machine
end

