-- ==== Sys2Proof/Machine/TestInstructions.lean ====
section
/-! DEFINITION. The test instructions (45_test.md). The G pins are samples of the environment, not register G (D16, entry 8).
A meaning is run with PC = npc, the address after the instruction's last byte (R117). -/

namespace Sys2Proof.Machine

/-- SKC (R220). -/
def execSkc (s : State) : Result := .next (s.skipIf s.c)

/-- SKE (R221). -/
def execSke (s : State) : Result := .next (s.skipIf (s.a == s.m))

/-- SKGZ (R222). -/
def execSkgz (s : State) : Result := .next (s.takeSample.skipIf (s.sample.g == 0#4))

/-- SKGBZ 0 (R223). -/
def execSkgbz0 (s : State) : Result := .next (s.takeSample.skipIf (bitIsZero s.sample.g 0))

/-- SKGBZ 1 (R223). -/
def execSkgbz1 (s : State) : Result := .next (s.takeSample.skipIf (bitIsZero s.sample.g 1))

/-- SKGBZ 2 (R223). -/
def execSkgbz2 (s : State) : Result := .next (s.takeSample.skipIf (bitIsZero s.sample.g 2))

/-- SKGBZ 3 (R223). -/
def execSkgbz3 (s : State) : Result := .next (s.takeSample.skipIf (bitIsZero s.sample.g 3))

/-- SKMBZ 0 (R224). -/
def execSkmbz0 (s : State) : Result := .next (s.skipIf (bitIsZero s.m 0))

/-- SKMBZ 1 (R224). -/
def execSkmbz1 (s : State) : Result := .next (s.skipIf (bitIsZero s.m 1))

/-- SKMBZ 2 (R224). -/
def execSkmbz2 (s : State) : Result := .next (s.skipIf (bitIsZero s.m 2))

/-- SKMBZ 3 (R224). -/
def execSkmbz3 (s : State) : Result := .next (s.skipIf (bitIsZero s.m 3))

/-- SKT (R225). -/
def execSkt (s : State) : Result := .next ({ s with tov := false }.skipIf s.tov)

end Sys2Proof.Machine
end

