-- ==== Sys2Proof/Machine/Transfer.lean ====
section
/-! DEFINITION. The transfer of control instructions (42_transfer_of_control.md).
A meaning is run with PC = npc, the address after the instruction's last byte (R117). -/

namespace Sys2Proof.Machine

/-- JID (R160). -/
def execJid (s : State) : Result :=
  .next { s with pc := s.pc.extractLsb' 8 3 ++ s.romRead s.tableAddr }

/-- JMP a (R161). -/
def execJmp (a : RomAddr) (s : State) : Result := .next { s with pc := a }

/-- JP a, the seven-bit form inside pages 2 and 3 (R162). -/
def execJpPages23 (a : BitVec 7) (s : State) : Result :=
  .next { s with pc := s.pc.extractLsb' 7 4 ++ a }

/-- JP a, the six-bit form (R162). -/
def execJpPage (a : BitVec 6) (s : State) : Result :=
  .next { s with pc := s.pc.extractLsb' 6 5 ++ a }

/-- JSRP a (R163). -/
def execJsrp (a : BitVec 6) (s : State) : Result :=
  .next { s.push s.pc with pc := 0b00010#5 ++ a }

/-- JSR a (R164); the pushed address is npc (R122, D2, entry 29). -/
def execJsr (a : RomAddr) (s : State) : Result := .next { s.push s.pc with pc := a }

/-- RET (R165). -/
def execRet (s : State) : Result := .next s.pop

/-- RETSK (R166). -/
def execRetsk (s : State) : Result := .next (s.pop.skipIf true)

/-- HALT (R167). -/
def execHalt (s : State) : Result := .next s.requestHalt

/-- IT (R168); not allowed with the external event counter (R312, U6, entry 13). -/
def execIt (s : State) : Result :=
  if s.cfg.options.timer = .timeBase then .next { s with idle := true }
  else .fault .idleWithEventCounter

end Sys2Proof.Machine
end

