-- ==== Sys2Proof/Machine/Dispatch.lean ====
section
/-! DEFINITION. One arm per constructor of Instr: the instruction's meaning. -/

namespace Sys2Proof.Machine

/-- What an instruction does, run with PC = npc (R117 step 5). -/
def exec (i : Instr) (s : State) : Host.Outcome State Fault Refusal :=
  match i with
  | .asc => Sys2Proof.Machine.execAsc s
  | .add => Sys2Proof.Machine.execAdd s
  | .adt => Sys2Proof.Machine.execAdt s
  | .aisc y => Sys2Proof.Machine.execAisc y s
  | .casc => Sys2Proof.Machine.execCasc s
  | .clra => Sys2Proof.Machine.execClra s
  | .comp => Sys2Proof.Machine.execComp s
  | .nop => Sys2Proof.Machine.execNop s
  | .rc => Sys2Proof.Machine.execRc s
  | .sc => Sys2Proof.Machine.execSc s
  | .xor => Sys2Proof.Machine.execXor s
  | .jid => Sys2Proof.Machine.execJid s
  | .jmp a => Sys2Proof.Machine.execJmp a s
  | .jpPages23 a => Sys2Proof.Machine.execJpPages23 a s
  | .jpPage a => Sys2Proof.Machine.execJpPage a s
  | .jsrp a => Sys2Proof.Machine.execJsrp a s
  | .jsr a => Sys2Proof.Machine.execJsr a s
  | .ret => Sys2Proof.Machine.execRet s
  | .retsk => Sys2Proof.Machine.execRetsk s
  | .halt => Sys2Proof.Machine.execHalt s
  | .it => Sys2Proof.Machine.execIt s
  | .camt => Sys2Proof.Machine.execCamt s
  | .ctma => Sys2Proof.Machine.execCtma s
  | .camq => Sys2Proof.Machine.execCamq s
  | .cqma => Sys2Proof.Machine.execCqma s
  | .ld r => Sys2Proof.Machine.execLd r s
  | .ldd r d => Sys2Proof.Machine.execLdd r d s
  | .lqid => Sys2Proof.Machine.execLqid s
  | .rmb0 => Sys2Proof.Machine.execRmb0 s
  | .rmb1 => Sys2Proof.Machine.execRmb1 s
  | .rmb2 => Sys2Proof.Machine.execRmb2 s
  | .rmb3 => Sys2Proof.Machine.execRmb3 s
  | .smb0 => Sys2Proof.Machine.execSmb0 s
  | .smb1 => Sys2Proof.Machine.execSmb1 s
  | .smb2 => Sys2Proof.Machine.execSmb2 s
  | .smb3 => Sys2Proof.Machine.execSmb3 s
  | .stii y => Sys2Proof.Machine.execStii y s
  | .x r => Sys2Proof.Machine.execX r s
  | .xad r d => Sys2Proof.Machine.execXad r d s
  | .xds r => Sys2Proof.Machine.execXds r s
  | .xis r => Sys2Proof.Machine.execXis r s
  | .cab => Sys2Proof.Machine.execCab s
  | .cba => Sys2Proof.Machine.execCba s
  | .lbiShort r d => Sys2Proof.Machine.execLbiShort r d s
  | .lbiLong r d => Sys2Proof.Machine.execLbiLong r d s
  | .lei y => Sys2Proof.Machine.execLei y s
  | .xabr => Sys2Proof.Machine.execXabr s
  | .skc => Sys2Proof.Machine.execSkc s
  | .ske => Sys2Proof.Machine.execSke s
  | .skgz => Sys2Proof.Machine.execSkgz s
  | .skgbz0 => Sys2Proof.Machine.execSkgbz0 s
  | .skgbz1 => Sys2Proof.Machine.execSkgbz1 s
  | .skgbz2 => Sys2Proof.Machine.execSkgbz2 s
  | .skgbz3 => Sys2Proof.Machine.execSkgbz3 s
  | .skmbz0 => Sys2Proof.Machine.execSkmbz0 s
  | .skmbz1 => Sys2Proof.Machine.execSkmbz1 s
  | .skmbz2 => Sys2Proof.Machine.execSkmbz2 s
  | .skmbz3 => Sys2Proof.Machine.execSkmbz3 s
  | .skt => Sys2Proof.Machine.execSkt s
  | .ing => Sys2Proof.Machine.execIng s
  | .inin => Sys2Proof.Machine.execInin s
  | .inil => Sys2Proof.Machine.execInil s
  | .inl => Sys2Proof.Machine.execInl s
  | .obd => Sys2Proof.Machine.execObd s
  | .ogi y => Sys2Proof.Machine.execOgi y s
  | .omg => Sys2Proof.Machine.execOmg s
  | .xas => Sys2Proof.Machine.execXas s

end Sys2Proof.Machine
end

