-- ==== Sys2Proof/Machine/Environment.lean ====
section
/-! DEFINITION. What each event of the environment does to the state (R51). An event that a part or an option makes
impossible (no IN pins, no HALT port, no MICROBUS) changes nothing (entry 26). -/

namespace Sys2Proof.Machine

/-- HALT or IDLE: the states in which U20 leaves open whether a pulse is registered. -/
def State.isStopped (s : State) : Bool := s.isHalted || s.idle

/-- A pulse that arrives now is registered: always while running, else a free value (U20, entry 9). -/
def State.registersPulse (s : State) : Bool := !s.isStopped || Config.pulseRegistered s.freeIndex

/-- A pulse that arrives in HALT or IDLE takes a free value. -/
def State.takePulse (s : State) : State := if s.isStopped then s.takeFree else s

/-- A pulse on an IN pin is registered: the chip has the pin (R6, R30). -/
def State.registersInPulse (s : State) : Bool := s.hasIn && s.registersPulse

/-- `PulseIN0` (R30). -/
def State.pulseIN0 (s : State) : State := { s.takePulse with il0 := s.il0 || s.registersInPulse }

/-- `PulseIN3` (R30). -/
def State.pulseIN3 (s : State) : State := { s.takePulse with il3 := s.il3 || s.registersInPulse }

/-- `PulseIN1` (R253): a request if the interrupt is enabled, or if the part remembers pulses while it is not (D7). -/
def State.pulseIN1 (s : State) : State :=
  { s.takePulse with
    intReq := s.intReq
      || (s.registersInPulse && (s.en.getLsbD 1 || s.cfg.params.in1PulseLatchedWhenDisabled)) }

/-- `PulseIN2` (R264): counts T in the event-counter mode. -/
def State.pulseIN2 (s : State) : State :=
  s.takePulse.countIf (s.registersInPulse && s.cfg.options.timer == .eventCounter)

/-- `PulseSI` (R275): counts SIO down in the counter mode, from 0 to 15 (D25, entry 39). -/
def State.pulseSI (s : State) : State :=
  { s.takePulse with sio := if s.en.getLsbD 0 && s.registersPulse then s.sio - 1#4 else s.sio }

/-- `Reset` of a running chip (R301): RAM is unchanged, and Q, SIO, SA, SB, SC, TOV hold unknown values (R302,
entry 4). The clock runs afterwards (entry 10). -/
def State.resetPin (s : State) : State :=
  let u := Config.resetUnspecified (s.freeIndex + 1)
  { s.takeFree with
    pc := 0#11, a := 0#4, b := 0#7, c := false, d := 0#4, en := 0#4
    il3 := false, il0 := false, t := 0#8, tp := 0#2, g := 0#4, skl := true
    halted := false, clockStopped := false, idle := false
    skip := false, lbiChain := false, sskip := false, intReq := false
    q := u.q, sio := u.sio, sa := u.sa, sb := u.sb, sc := u.sc, tov := u.tov }

/-- The registers after the power-up of a chip without internal initialization logic (option 29 = 1, R300): each holds
an unknown value, until the external circuit's reset. DESIGN CHOICE (entry 44). -/
def State.uninitialized (s : State) : State :=
  let u := Config.resetUnspecified (s.freeIndex + 1)
  let p := Config.uninitialized (s.freeIndex + 1)
  { s.takeFree with
    pc := p.pc, a := p.a, b := s.fitB p.b, c := p.c, d := p.d, en := p.en
    il3 := p.il3, il0 := p.il0, t := p.t, tp := p.tp, g := p.g, skl := p.skl
    halted := p.halted, clockStopped := false, idle := p.idle
    skip := p.skip, lbiChain := p.lbiChain, sskip := p.sskip, intReq := p.intReq
    q := u.q, sio := u.sio, sa := u.sa, sb := u.sb, sc := u.sc, tov := u.tov }

/-- `Reset` by power-up (R300): the RAM contents are unknown again (R43, entry 28), and the internal logic initializes
the chip unless option 29 = 1 leaves that to the RESET pin. -/
def State.powerUp (s : State) : State :=
  { (if s.cfg.options.noResetLogic then s.uninitialized else s.resetPin) with
    ram := [], ramEpoch := s.ramEpoch + 1 }

/-- `HaltForce` (R268 b), with CKO as the HALT I/O port only. -/
def State.haltForce (s : State) : State := if s.cfg.options.cko = .haltPort then s.requestHalt else s

/-- `Continue` (R270), with CKO as the HALT I/O port only. -/
def State.continueRun (s : State) : State :=
  if s.cfg.options.cko = .haltPort then { s with halted := false } else s

/-- `HostWrite(v)` (R278, R280), with the MICROBUS option only. DESIGN CHOICE (entry 46): it takes effect in HALT and in
IDLE too, where R269 and R272 say that registers keep their values and R278 names no condition. -/
def State.hostWrite (s : State) (v : Byte) : State :=
  if s.cfg.options.microbus then { s with q := v, g := s.g &&& 0b1110#4 } else s

/-- The state after an event (R51). `HostRead` changes nothing (R279). -/
def State.deliver (s : State) : Event → State
  | .quiet => s
  | .pulseIN0 => s.pulseIN0
  | .pulseIN1 => s.pulseIN1
  | .pulseIN2 => s.pulseIN2
  | .pulseIN3 => s.pulseIN3
  | .pulseSI => s.pulseSI
  | .resetPin => s.resetPin
  | .powerUp => s.powerUp
  | .haltForce => s.haltForce
  | .continueRun => s.continueRun
  | .clockStop => { s with clockStopped := true }
  | .clockStart => { s with clockStopped := false }
  | .hostWrite v => s.hostWrite v
  | .hostRead => s

end Sys2Proof.Machine
end

