-- ==== Sys2Proof/Machine/Sequence.lean ====
section
/-! DEFINITION. The sequencing (R117 to R122): fetch, acknowledgement of the interrupt, skip, LBI chain, the
instruction's effect and its ticks, the stopped states, and the placing of an instruction at PC. -/

namespace Sys2Proof.Machine

/-- The bytes that the fetch at PC can read (R114): PC counts modulo 2048 (R41). -/
def State.fetchBytes (s : State) : List Byte := [s.romRead s.pc, s.romRead (s.pc + 1#11)]

/-- The page context of the instruction at PC (R106, D3, entry 30): whether PC + 1, as it reaches the ROM of the part (R71),
lies in pages 2 or 3. DEDUCED (entry 45): on a 1K part bit 10 is ignored here as it is in the fetch. -/
def State.pageContext (s : State) : Bool := inPages23 (s.reduceAddr (s.pc + 1#11))

/-- The instruction at PC (R106, R114). -/
def State.fetch (s : State) : Except DecodeError Instr :=
  match decode s.pageContext s.fetchBytes with
  | .ok (i, _) => .ok i
  | .error e => .error e

/-- R254 (d), (e) of the instruction at PC, and `ACK_BEFORE_FIRST_LBI` for the first LBI of a run (D6, entry 33).
Bytes that are no instruction are none of those named, so they hold nothing up. -/
def State.boundaryAllows (s : State) : Bool :=
  match s.fetch with
  | .ok i =>
    !i.isTransferOfControl
      && !(i.isLbi && (s.lbiChain || !s.cfg.params.ackBeforeFirstLbi))
  | .error _ => true

/-- The interrupt is acknowledged at this boundary (R254). -/
def State.acknowledges (s : State) : Bool :=
  s.en.getLsbD 1 && s.intReq && !s.isHalted && !s.idle && s.boundaryAllows

/-- How many of an executed instruction's cycles tick before its effect: none by the spec's default (`TICK_PHASE`, U16,
entry 19). -/
def State.ticksBefore (s : State) (i : Instr) : Nat := min s.cfg.params.tickPhase.ticksBefore i.cycles

/-- The cycles of the executed instruction leave the time base alone: it is a CAMT (R266, D11), unless `TICK_PHASE` has
its cycles count (entry 19). -/
def State.pausesTimeBase (s : State) (i : Instr) : Bool := i.isCamt && !s.cfg.params.tickPhase.camtTicks

/-- R117 step 5 and the ticks of step 6 around it: LBICHAIN set by the instruction, its effect, and its ticks, as many of
them before the effect as `TICK_PHASE` says. -/
def executeInstr (i : Instr) (s : State) : Result :=
  match exec i { State.ticks (s.pausesTimeBase i) (s.ticksBefore i) s with lbiChain := i.isLbi } with
  | .next s' => .next (State.ticks (s.pausesTimeBase i) (i.cycles - s.ticksBefore i) s')
  | .fault f => .fault f
  | .refused r => .refused r

/-- R117 steps 3 to 6, with PC = npc: skip, pass over a chained LBI, or execute; then the ticks. -/
def runInstr (i : Instr) (s : State) : Result :=
  if s.skip then .next (State.ticks false i.length { s with skip := false, lbiChain := false })
  else if s.lbiChain && i.isLbi then .next (State.ticks false i.length s)
  else executeInstr i s

/-- PC past an instruction (R117 step 2). -/
def State.advance (s : State) (i : Instr) : State := { s with pc := s.pc + BitVec.ofNat 11 i.length }

/-- One step of the machine itself: nothing in HALT (R269), one cycle of the time base in IDLE (R272), the interrupt
(R255), or one instruction (R117). -/
def machineStep (s : State) : Result :=
  if s.isHalted then .next s
  else if s.idle then .next s.timeBase
  else if s.acknowledges then .next s.interrupt
  else
    match s.fetch with
    | .ok i => runInstr i (s.advance i)
    | .error e => .fault (.undefinedEncoding e)

/-- One step: the next event of the environment as a step of its own (R86), or, where none is due, one step of the
machine (entry 7). -/
def stepOnce (s : State) : Result :=
  match s.events with
  | [] => machineStep s
  | .quiet :: rest => machineStep { s with events := rest }
  | e :: rest => .next ({ s with events := rest }.deliver e)

/-- The state ready to fetch, with the bytes of a table word in ROM from PC on (entries 2, 23, 24). -/
def State.placeTableWord (s : State) (nbits w : Nat) : State :=
  s.readyToFetch.programBytes s.pc (tableWordBytes nbits w)

end Sys2Proof.Machine
end

