-- ==== Sys2Proof/Machine/Step.lean ====
section
/-! DEFINITION. One step of the machine, and the placing of an instruction where the step fetches. -/

namespace Sys2Proof.Machine

/-- One step (R117, R86). -/
def step (s : State) : Host.Outcome State Fault Refusal := stepOnce s

/-- The state whose next step fetches and runs the instruction of an opcode-table word (entries 23, 24). -/
def State.withFetchWord (s : State) (nbits w : Nat) : State := s.placeTableWord nbits w

end Sys2Proof.Machine
end

