-- ==== Sys2Proof/Machine/Outputs.lean ====
section
/-! DEFINITION. What the outside can observe: the outputs as functions of the state (R36, R37, R52, R276), and the I/O
lines that the package of the part has (R2). -/

namespace Sys2Proof.Machine

/-! ### The I/O lines of a package (R2) -/

/-- The I/O lines: the pins of R51 and R52, but for CKO (DEDUCED, entry 52). -/
inductive IoLine
  | inp (i : Fin 4) | g (i : Fin 4) | d (i : Fin 4) | l (i : Fin 8) | si | so | sk
deriving DecidableEq, Repr

/-- IN3 to IN0, the lines that only the 28-pin package has (R31). -/
def inputLines : List IoLine := [.inp 0, .inp 1, .inp 2, .inp 3]

/-- The lines of the 24-pin package: all but IN3 to IN0 (R2, R231). -/
def commonLines : List IoLine :=
  [.g 0, .g 1, .g 2, .g 3, .d 0, .d 1, .d 2, .d 3, .l 0, .l 1, .l 2, .l 3, .l 4, .l 5, .l 6, .l 7, .si, .so, .sk]

/-- The lines of the 20-pin package: four fewer, and not all four G lines (R2, R230). Which ones is not in the source (N3):
the free value `Config.unbondedLines`. DESIGN CHOICE (entry 47). -/
def lines20 : List IoLine :=
  let u := Config.unbondedLines
  (((commonLines.eraseIdx u.1).eraseIdx u.2.1).eraseIdx u.2.2.1).eraseIdx u.2.2.2

/-- The I/O lines of a chip, by its part number and option 33 (R2, R53). -/
def ioLines (c : Config) : List IoLine :=
  if c.hasIn then inputLines ++ commonLines else if c.is20Pin then lines20 else commonLines

/-! ### What the chip drives -/

/-- What an I/O line shows. -/
inductive LineOutput
  /-- A constant level. -/
  | level (v : Bool)
  /-- The instruction cycle clock. -/
  | clock
  /-- The clock in HALT or IDLE: not stated (U11). -/
  | unspecified
  /-- Nothing: the line is an input, or in the high impedance state. -/
  | undriven
  /-- The package has no such line. -/
  | absent
deriving DecidableEq, Repr

/-- What the CKO pin shows as an output (option 2, R52, R54). -/
inductive CkoOutput
  /-- The clock generator output to the crystal or resonator. -/
  | clock
  /-- The HALT I/O port, with the HALT flip-flop behind it; its level is not stated (entry 48). -/
  | haltPort (flipFlop : Bool)
  /-- Nothing: CKO is a general purpose input. -/
  | input
  /-- The clock generator output in HALT or IDLE: not stated (U11, entry 48). -/
  | unspecified
deriving DecidableEq, Repr

/-- What drives SO (R37, R276). -/
def State.soDrive (s : State) : Bool :=
  if s.en.getLsbD 0 then s.en.getLsbD 3
  else if s.en.getLsbD 3 then s.sio.getLsbD 3
  else false

/-- What drives SK (R36, R276). -/
def State.skDrive (s : State) : LineOutput :=
  if s.en.getLsbD 0 then .level s.skl
  else if !s.skl then .level false
  else if s.isStopped then .unspecified
  else .clock

/-- What the L drivers put out (R27, R52, R279): Q when EN[2] = 1 or during a host's read strobe, else nothing. -/
def State.lDrive (s : State) (readStrobe : Bool) : Option Byte :=
  if s.en.getLsbD 2 || (s.cfg.options.microbus && readStrobe) then some s.q else none

/-- What the driver of D<i> puts out: D, but D0 is an oscillator input under the dual clock (R23, R282). -/
def State.dDrive (s : State) (i : Nat) : Option Bool :=
  if i = 0 ∧ s.cfg.options.dualClock ≠ .normal then none else some (s.d.getLsbD i)

/-- A line that is driven with a level or with nothing. -/
def LineOutput.ofOption : Option Bool → LineOutput
  | some v => .level v
  | none => .undriven

/-- What the chip drives on a line, whether or not the package has it (R52). -/
def State.drive (s : State) (readStrobe : Bool) : IoLine → LineOutput
  | .inp _ | .si => .undriven
  | .g i => .level (s.g.getLsbD i)
  | .d i => .ofOption (s.dDrive i)
  | .l i => .ofOption ((s.lDrive readStrobe).map (·.getLsbD i))
  | .so => .level s.soDrive
  | .sk => s.skDrive

/-- What the chip shows on an I/O line of its package (R2, R52), subject to the driver option and the outside circuit. -/
def State.pin (s : State) (readStrobe : Bool) (line : IoLine) : LineOutput :=
  if line ∈ ioLines s.cfg then s.drive readStrobe line else .absent

/-- CKO as an output, by option 2 (R52, R54). -/
def State.ckoPin (s : State) : CkoOutput :=
  match s.cfg.options.cko with
  | .clockOutput => if s.isStopped then .unspecified else .clock
  | .haltPort => .haltPort s.halted
  | .inputWithLoad | .inputHighZ => .input

end Sys2Proof.Machine
end

