-- ==== Sys2Proof/Safety.lean ====
section
/-! DEFINITION. The terms that claims use: what a store changes, the invariant of the state, what initialization leaves,
safe steps, the 10-bit count of the time base, runs, and the programs that the spec allows. -/

namespace Sys2Proof.Machine

/-- No RAM digit and no ROM word reads differently. -/
def StoresNothing (s t : State) : Prop :=
  (∀ i, t.readDigit i = s.readDigit i) ∧ ∀ i, t.romRead i = s.romRead i

/-- The digit at one address reads as the value; every other RAM digit and every ROM word reads as before. -/
def StoresOnly (addr : Nat) (v : Digit) (s t : State) : Prop :=
  t.readDigit addr = v ∧ (∀ i, i ≠ addr → t.readDigit i = s.readDigit i) ∧ ∀ i, t.romRead i = s.romRead i

/-- The bytes, followed by any others, are read as the instruction in either page context (R106). -/
def EncodedBy (bytes : List Byte) (i : Instr) : Prop :=
  ∀ in23 rest, decode in23 (bytes ++ rest) = .ok (i, rest)

/-- The invariant of the state: both memories are in canonical form inside the part's size (R70, R73), and register
B holds no more bits than the part has (R21). -/
def State.Inv (s : State) : Prop :=
  Memory.wf s.cfg.part.ramDigits s.ram = true
    ∧ Memory.wf s.cfg.part.romBytes s.rom = true
    ∧ s.fitB s.b = s.b

/-- The listed registers hold what an initialization gives them, and the machine runs (R301; the four hidden latches are
D10's, entry 5). -/
def State.Initialized (t : State) : Prop :=
  t.pc = 0#11 ∧ t.a = 0#4 ∧ t.b = 0#7 ∧ t.c = false ∧ t.d = 0#4 ∧ t.en = 0#4 ∧ t.g = 0#4
    ∧ t.il3 = false ∧ t.il0 = false ∧ t.t = 0#8 ∧ t.tp = 0#2 ∧ t.skl = true
    ∧ t.halted = false ∧ t.clockStopped = false ∧ t.idle = false
    ∧ t.skip = false ∧ t.lbiChain = false ∧ t.sskip = false ∧ t.intReq = false

/-- The step has a next state: the machine does not stop. -/
def SafeStep (s : State) : Prop := ∃ t, step s = .next t

/-- The machine fetches and decodes at the next step: no event is due, it is running, and no interrupt is taken. -/
def State.Running (s : State) : Prop :=
  s.events = [] ∧ s.isHalted = false ∧ s.idle = false ∧ s.acknowledges = false

/-- The 10-bit count TP:T of the time base, T being its high eight bits (R263). -/
def State.count10 (s : State) : Nat := s.t.toNat * 4 + s.tp.toNat

/-- k steps, as `Host.Core.run`: the state after them, or the first stop. -/
def State.run : Nat → State → Result
  | 0, s => .next s
  | k + 1, s =>
    match step s with
    | .next t => State.run k t
    | .fault f => .fault f
    | .refused r => .refused r

/-- R305: some run of the program, whatever the environment does, executes an LEI that sets EN[1]. -/
def State.EnablesInterrupt (s : State) : Prop :=
  ∃ (events : List Event) (queue : List Pins) (k : Nat) (u : State) (y : Digit),
    State.run k { s with events := events, pinQueue := queue } = .next u
      ∧ u.Running ∧ u.skip = false ∧ u.fetch = .ok (.lei y) ∧ y.getLsbD 1 = true

/-- R303, R305, U5, to the letter: CLRA at address 0, and a NOP at 0FF if the program ever sets EN[1]. The test that can be
evaluated, `romImageWellFormed`, asks no less (entry 20). -/
def State.ProgramAllowed (s : State) : Prop :=
  s.romRead 0#11 = 0x00#8 ∧ (s.EnablesInterrupt → s.romRead 0x0FF#11 = 0x44#8)

end Sys2Proof.Machine
end

