-- ==== Sys2Proof/Certificates/Slice0/Obligations.lean ====
section
/-! DEFINITION. The statements for the provers. `t = { s with … := t.…, … }` says that only the named fields may differ;
a RAM digit is read by `readDigit`, a ROM word by `romRead`. An instruction's meaning runs with PC = npc (R117). -/

open Sys2Proof Sys2Proof.Machine

/-! ### Arithmetic -/

/-- R140, R144: ASC adds A, M and C; CASC adds the complement of A, M and C. C takes the carry, and the carry skips. -/
def Obligations.AscCascAddWithCarry : Prop :=
  EncodedBy [0x30#8] .asc ∧ EncodedBy [0x10#8] .casc ∧ Instr.asc.cycles = 1 ∧ Instr.casc.cycles = 1
  ∧ ∀ s : State,
    (∃ t, exec .asc s = .next t
      ∧ t.a.toNat = (s.a.toNat + s.m.toNat + s.c.toNat) % 16
      ∧ (t.c = true ↔ 16 ≤ s.a.toNat + s.m.toNat + s.c.toNat)
      ∧ (t.skip = true ↔ s.skip = true ∨ 16 ≤ s.a.toNat + s.m.toNat + s.c.toNat)
      ∧ t = { s with a := t.a, c := t.c, skip := t.skip } ∧ StoresNothing s t)
    ∧ (∃ t, exec .casc s = .next t
      ∧ t.a.toNat = ((15 - s.a.toNat) + s.m.toNat + s.c.toNat) % 16
      ∧ (t.c = true ↔ 16 ≤ (15 - s.a.toNat) + s.m.toNat + s.c.toNat)
      ∧ (t.skip = true ↔ s.skip = true ∨ 16 ≤ (15 - s.a.toNat) + s.m.toNat + s.c.toNat)
      ∧ t = { s with a := t.a, c := t.c, skip := t.skip } ∧ StoresNothing s t)

/-- R141, R142, R143: ADD and ADT write A only; AISC y (y from 1 to 15) writes A and skips on carry; none writes C. -/
def Obligations.AddAdtAiscSums : Prop :=
  EncodedBy [0x31#8] .add ∧ EncodedBy [0x4A#8] .adt ∧ (∀ y : Digit, y ≠ 0#4 → EncodedBy [5#4 ++ y] (.aisc y))
  ∧ Instr.add.cycles = 1 ∧ Instr.adt.cycles = 1 ∧ (∀ y, (Instr.aisc y).cycles = 1)
  ∧ ∀ s : State,
    (∃ t, exec .add s = .next t ∧ t.a.toNat = (s.a.toNat + s.m.toNat) % 16
      ∧ t = { s with a := t.a } ∧ StoresNothing s t)
    ∧ (∃ t, exec .adt s = .next t ∧ t.a.toNat = (s.a.toNat + 10) % 16
      ∧ t = { s with a := t.a } ∧ StoresNothing s t)
    ∧ ∀ y : Digit, ∃ t, exec (.aisc y) s = .next t ∧ t.a.toNat = (s.a.toNat + y.toNat) % 16
      ∧ (t.skip = true ↔ s.skip = true ∨ 16 ≤ s.a.toNat + y.toNat)
      ∧ t = { s with a := t.a, skip := t.skip } ∧ StoresNothing s t

/-- R145, R146, R150: CLRA, COMP and XOR write A only. -/
def Obligations.ClraCompXorWriteA : Prop :=
  EncodedBy [0x00#8] .clra ∧ EncodedBy [0x40#8] .comp ∧ EncodedBy [0x02#8] .xor
  ∧ Instr.clra.cycles = 1 ∧ Instr.comp.cycles = 1 ∧ Instr.xor.cycles = 1
  ∧ ∀ s : State,
    (∃ t, exec .clra s = .next t ∧ t.a.toNat = 0 ∧ t = { s with a := t.a } ∧ StoresNothing s t)
    ∧ (∃ t, exec .comp s = .next t ∧ t.a.toNat = 15 - s.a.toNat ∧ t = { s with a := t.a } ∧ StoresNothing s t)
    ∧ (∃ t, exec .xor s = .next t ∧ (∀ k < 4, t.a.getLsbD k = (s.a.getLsbD k != s.m.getLsbD k))
      ∧ t = { s with a := t.a } ∧ StoresNothing s t)

/-- R147, R148, R149: NOP changes nothing, RC and SC write C only. -/
def Obligations.NopRcScResults : Prop :=
  EncodedBy [0x44#8] .nop ∧ EncodedBy [0x32#8] .rc ∧ EncodedBy [0x22#8] .sc
  ∧ Instr.nop.cycles = 1 ∧ Instr.rc.cycles = 1 ∧ Instr.sc.cycles = 1
  ∧ Instr.nop.isLbi = false ∧ Instr.nop.isTransferOfControl = false
  ∧ ∀ s : State,
    exec .nop s = .next s
    ∧ (∃ t, exec .rc s = .next t ∧ t.c = false ∧ t = { s with c := t.c } ∧ StoresNothing s t)
    ∧ (∃ t, exec .sc s = .next t ∧ t.c = true ∧ t = { s with c := t.c } ∧ StoresNothing s t)

/-! ### Transfer of control -/

/-- R160: JID replaces PC[7:0] by the ROM word at npc[10:8] : A : M; two cycles if executed, one if skipped. -/
def Obligations.JidJumpsThroughTable : Prop :=
  EncodedBy [0xFF#8] .jid ∧ Instr.jid.cycles = 2 ∧ Instr.jid.length = 1
  ∧ ∀ s : State, ∃ t, exec .jid s = .next t
    ∧ t.pc.toNat = s.pc.toNat / 256 * 256
        + (s.romRead (BitVec.ofNat 11 (s.pc.toNat / 256 * 256 + s.a.toNat * 16 + s.m.toNat))).toNat
    ∧ t = { s with pc := t.pc } ∧ StoresNothing s t

/-- R161, R162: the encodings and targets of JMP and of both forms of JP; the page is that of npc. The JP targets
0x3F (and 0x7F) of a page have no encoding: those bytes are LQID and JID. -/
def Obligations.JmpJpTargets : Prop :=
  (∀ a : RomAddr, EncodedBy [0b01100#5 ++ a.extractLsb' 8 3, a.extractLsb' 0 8] (.jmp a) ∧ (Instr.jmp a).cycles = 2)
  ∧ (∀ (a : BitVec 7) rest, a ≠ 0x3F#7 → a ≠ 0x7F#7 →
      decode true ((1#1 ++ a) :: rest) = .ok (.jpPages23 a, rest) ∧ (Instr.jpPages23 a).cycles = 1)
  ∧ (∀ (a : BitVec 6) rest, a ≠ 0x3F#6 →
      decode false ((0b11#2 ++ a) :: rest) = .ok (.jpPage a, rest) ∧ (Instr.jpPage a).cycles = 1)
  ∧ (∀ npc : RomAddr, inPages23 npc = true ↔ 0x080 ≤ npc.toNat ∧ npc.toNat ≤ 0x0FF)
  ∧ ∀ s : State,
    (∀ a : RomAddr, ∃ t, exec (.jmp a) s = .next t ∧ t.pc = a ∧ t = { s with pc := t.pc } ∧ StoresNothing s t)
    ∧ (∀ a : BitVec 7, ∃ t, exec (.jpPages23 a) s = .next t
        ∧ t.pc.toNat = s.pc.toNat / 128 * 128 + a.toNat
        ∧ (inPages23 s.pc = true → t.pc.toNat = 0x080 + a.toNat)
        ∧ t = { s with pc := t.pc } ∧ StoresNothing s t)
    ∧ (∀ a : BitVec 6, ∃ t, exec (.jpPage a) s = .next t
        ∧ t.pc.toNat = s.pc.toNat / 64 * 64 + a.toNat
        ∧ t = { s with pc := t.pc } ∧ StoresNothing s t)

/-- R163: JSRP, outside pages 2 and 3, pushes npc and goes to page 2; inside them its bytes are the seven-bit JP. -/
def Obligations.JsrpCallsPage2 : Prop :=
  (∀ (a : BitVec 6) rest, a ≠ 0x3F#6 →
    decode false ((0b10#2 ++ a) :: rest) = .ok (.jsrp a, rest)
    ∧ decode true ((0b10#2 ++ a) :: rest) = .ok (.jpPages23 (0#1 ++ a), rest)
    ∧ (Instr.jsrp a).cycles = 1)
  ∧ ∀ (s : State) (a : BitVec 6), ∃ t, exec (.jsrp a) s = .next t
    ∧ t.pc.toNat = 0x080 + a.toNat ∧ t.sa = s.pc ∧ t.sb = s.sa ∧ t.sc = s.sb
    ∧ t = { s with pc := t.pc, sa := t.sa, sb := t.sb, sc := t.sc } ∧ StoresNothing s t

/-- JSR pushes the address after its second byte (the spec's decision D2, entry 29) and goes to a. -/
def Obligations.JsrPushesNpc : Prop :=
  (∀ a : RomAddr, EncodedBy [0b01101#5 ++ a.extractLsb' 8 3, a.extractLsb' 0 8] (.jsr a) ∧ (Instr.jsr a).cycles = 2)
  ∧ ∀ (s : State) (a : RomAddr), ∃ t, exec (.jsr a) s = .next t
    ∧ t.pc = a ∧ t.sa = s.pc ∧ t.sb = s.sa ∧ t.sc = s.sb
    ∧ t = { s with pc := t.pc, sa := t.sa, sb := t.sb, sc := t.sc } ∧ StoresNothing s t

/-- RET and RETSK pop: PC takes SA, SA takes SB, SB takes SC, SC stays (D9, entry 36); SKIP takes SSKIP, which is
cleared (D8, entry 35); RETSK then sets SKIP. -/
def Obligations.RetRetskPop : Prop :=
  EncodedBy [0x48#8] .ret ∧ EncodedBy [0x49#8] .retsk ∧ Instr.ret.cycles = 1 ∧ Instr.retsk.cycles = 1
  ∧ ∀ s : State,
    (∃ t, exec .ret s = .next t ∧ t.pc = s.sa ∧ t.sa = s.sb ∧ t.sb = s.sc ∧ t.skip = s.sskip ∧ t.sskip = false
      ∧ t = { s with pc := t.pc, sa := t.sa, sb := t.sb, skip := t.skip, sskip := t.sskip } ∧ StoresNothing s t)
    ∧ (∃ t, exec .retsk s = .next t ∧ t.pc = s.sa ∧ t.sa = s.sb ∧ t.sb = s.sc ∧ t.skip = true ∧ t.sskip = false
      ∧ t = { s with pc := t.pc, sa := t.sa, sb := t.sb, skip := t.skip, sskip := t.sskip } ∧ StoresNothing s t)

/-- HALT sets the HALT flip-flop; under option 30 = 2 only if the environment's sample says that the D0 clock is not
running (U14, entry 16). IT sets IDLE with the time-base counter; with the event counter it is not allowed and the model
stops (U6, entry 13). -/
def Obligations.HaltItStopTheMachine : Prop :=
  EncodedBy [0x33#8, 0x38#8] .halt ∧ Instr.halt.cycles = 2 ∧ EncodedBy [0x33#8, 0x39#8] .it ∧ Instr.it.cycles = 2
  ∧ ∀ s : State,
    (s.cfg.options.dualClock ≠ .d0ExternalClock →
      ∃ t, exec .halt s = .next t ∧ t.isHalted = true ∧ t = { s with halted := t.halted } ∧ StoresNothing s t)
    ∧ (s.cfg.options.dualClock = .d0ExternalClock →
      ∃ t, exec .halt s = .next t ∧ (t.halted = true ↔ s.halted = true ∨ s.sample.d0Clock = false)
        ∧ t = { s.takeSample with halted := t.halted } ∧ StoresNothing s t)
    ∧ (s.cfg.options.timer = .timeBase →
      ∃ t, exec .it s = .next t ∧ t.idle = true ∧ t = { s with idle := t.idle } ∧ StoresNothing s t)
    ∧ (s.cfg.options.timer = .eventCounter → exec .it s = .fault .idleWithEventCounter)

/-! ### Memory reference -/

/-- CAMT loads T from A and M, clears the prescaler, and sets TOV if T[7] was 1 before (D12, entry 18); none of its
two cycles advances the time base, unless `TICK_PHASE` says they do (D11, U16, entry 19). CTMA delivers T, or under the
dual clock a free byte (U7, entry 15), high half to M and low half to A. -/
def Obligations.CamtCtmaTimerCopies : Prop :=
  EncodedBy [0x33#8, 0x3F#8] .camt ∧ EncodedBy [0x33#8, 0x2F#8] .ctma
  ∧ Instr.camt.cycles = 2 ∧ Instr.ctma.cycles = 2
  ∧ ∀ s : State,
    (∃ t, exec .camt s = .next t ∧ t.t.toNat = s.a.toNat * 16 + s.m.toNat ∧ t.tp = 0#2
      ∧ (t.tov = true ↔ s.tov = true ∨ 128 ≤ s.t.toNat)
      ∧ t = { s with t := t.t, tp := t.tp, tov := t.tov } ∧ StoresNothing s t
      ∧ (s.cfg.params.tickPhase.camtTicks = false →
          ∀ n, (State.ticks (s.pausesTimeBase .camt) n t).count10 = t.count10))
    ∧ (s.cfg.options.dualClock = .normal → ∃ t, exec .ctma s = .next t ∧ t.a.toNat = s.t.toNat % 16
      ∧ StoresOnly s.ramAddr (BitVec.ofNat 4 (s.t.toNat / 16)) s t ∧ t = { s with a := t.a, ram := t.ram })
    ∧ (s.cfg.options.dualClock ≠ .normal → ∃ t, exec .ctma s = .next t
      ∧ t.a.toNat = (Config.ctmaByte s.freeIndex).toNat % 16
      ∧ StoresOnly s.ramAddr (BitVec.ofNat 4 ((Config.ctmaByte s.freeIndex).toNat / 16)) s t
      ∧ t = { s with a := t.a, ram := t.ram, freeIndex := s.freeIndex + 1 })

/-- R182, R183: CAMQ copies A and M to Q; CQMA copies Q[7:4] to M and Q[3:0] to A. -/
def Obligations.CamqCqmaCopies : Prop :=
  EncodedBy [0x33#8, 0x3C#8] .camq ∧ EncodedBy [0x33#8, 0x2C#8] .cqma
  ∧ Instr.camq.cycles = 2 ∧ Instr.cqma.cycles = 2
  ∧ ∀ s : State,
    (∃ t, exec .camq s = .next t ∧ t.q.toNat = s.a.toNat * 16 + s.m.toNat
      ∧ (s.en.getLsbD 2 = true → t.lDrive false = some t.q)
      ∧ t = { s with q := t.q } ∧ StoresNothing s t)
    ∧ (∃ t, exec .cqma s = .next t ∧ t.a.toNat = s.q.toNat % 16
      ∧ StoresOnly s.ramAddr (BitVec.ofNat 4 (s.q.toNat / 16)) s t ∧ t = { s with a := t.a, ram := t.ram })

/-- R184, R185: LD loads A from M and exclusive-ors Br with r; LDD loads A from the digit r.d (on a 1K part, r from 0
to 3) and leaves B alone. -/
def Obligations.LdLddLoadA : Prop :=
  (∀ r : BitVec 2, EncodedBy [0b00#2 ++ r ++ 5#4] (.ld r) ∧ (Instr.ld r).cycles = 1)
  ∧ (∀ (r : BitVec 3) (d : Digit), EncodedBy [0x23#8, 0#1 ++ r ++ d] (.ldd r d) ∧ (Instr.ldd r d).cycles = 2)
  ∧ ∀ s : State,
    (∀ r : BitVec 2, ∃ t, exec (.ld r) s = .next t ∧ t.a = s.m ∧ t.br.toNat = s.br.toNat ^^^ r.toNat ∧ t.bd = s.bd
      ∧ t = { s with a := t.a, b := t.b } ∧ StoresNothing s t)
    ∧ (∀ (r : BitVec 3) (d : Digit), s.cfg.part.is2K = true ∨ r.toNat < 4 →
      ∃ t, exec (.ldd r d) s = .next t ∧ t.a = s.readDigit (r.toNat * 16 + d.toNat)
        ∧ t = { s with a := t.a } ∧ StoresNothing s t)

/-- LQID loads Q from the ROM word at npc[10:8] : A : M and leaves SC = SB, everything else of PC and the stack as it
was; the saved skip is restored exactly if `LQID_POP_RESTORES_SKIP` (U9, entries 17, 36). -/
def Obligations.LqidLoadsQ : Prop :=
  EncodedBy [0xBF#8] .lqid ∧ Instr.lqid.cycles = 2 ∧ Instr.lqid.length = 1
  ∧ ∀ s : State, ∃ t, exec .lqid s = .next t
    ∧ t.q = s.romRead (BitVec.ofNat 11 (s.pc.toNat / 256 * 256 + s.a.toNat * 16 + s.m.toNat))
    ∧ t.sc = s.sb
    ∧ (s.cfg.params.lqidPopRestoresSkip = true → t.skip = s.sskip ∧ t.sskip = false)
    ∧ (s.cfg.params.lqidPopRestoresSkip = false → t.skip = s.skip ∧ t.sskip = s.sskip)
    ∧ t = { s with q := t.q, sc := t.sc, skip := t.skip, sskip := t.sskip } ∧ StoresNothing s t

/-- R187, R188: RMB n and SMB n change bit n of the digit at B and nothing else. -/
def Obligations.RmbSmbChangeOneBit : Prop :=
  EncodedBy [0x4C#8] .rmb0 ∧ EncodedBy [0x45#8] .rmb1 ∧ EncodedBy [0x42#8] .rmb2 ∧ EncodedBy [0x43#8] .rmb3
  ∧ EncodedBy [0x4D#8] .smb0 ∧ EncodedBy [0x47#8] .smb1 ∧ EncodedBy [0x46#8] .smb2 ∧ EncodedBy [0x4B#8] .smb3
  ∧ ∀ p ∈ [(Instr.rmb0, 0, false), (.rmb1, 1, false), (.rmb2, 2, false), (.rmb3, 3, false),
      (.smb0, 0, true), (.smb1, 1, true), (.smb2, 2, true), (.smb3, 3, true)],
    p.1.cycles = 1 ∧ ∀ s : State, ∃ t v, exec p.1 s = .next t
      ∧ (∀ k < 4, v.getLsbD k = if k = p.2.1 then p.2.2 else s.m.getLsbD k)
      ∧ StoresOnly s.ramAddr v s t ∧ t = { s with ram := t.ram }

/-- R189: STII stores y at B and then increments Bd modulo 16; Br is unchanged and nothing skips. -/
def Obligations.StiiStoresAndIncrements : Prop :=
  (∀ y : Digit, EncodedBy [7#4 ++ y] (.stii y) ∧ (Instr.stii y).cycles = 1)
  ∧ ∀ (s : State) (y : Digit), ∃ t, exec (.stii y) s = .next t
    ∧ StoresOnly s.ramAddr y s t
    ∧ t.bd.toNat = (s.bd.toNat + 1) % 16 ∧ t.br = s.br
    ∧ t = { s with ram := t.ram, b := t.b }

/-- R190, R192, R193: X, XDS and XIS exchange A with the digit at the old B, then change Br by exclusive-or with r and
step Bd; XDS skips when Bd passes 0 and XIS when it passes 15. -/
def Obligations.ExchangesStepB : Prop :=
  (∀ r : BitVec 2, EncodedBy [0b00#2 ++ r ++ 6#4] (.x r) ∧ EncodedBy [0b00#2 ++ r ++ 7#4] (.xds r)
    ∧ EncodedBy [0b00#2 ++ r ++ 4#4] (.xis r)
    ∧ (Instr.x r).cycles = 1 ∧ (Instr.xds r).cycles = 1 ∧ (Instr.xis r).cycles = 1)
  ∧ ∀ (s : State) (r : BitVec 2),
    (∃ t, exec (.x r) s = .next t ∧ t.a = s.m ∧ StoresOnly s.ramAddr s.a s t
      ∧ t.br.toNat = s.br.toNat ^^^ r.toNat ∧ t.bd = s.bd
      ∧ t = { s with a := t.a, ram := t.ram, b := t.b })
    ∧ (∃ t, exec (.xds r) s = .next t ∧ t.a = s.m ∧ StoresOnly s.ramAddr s.a s t
      ∧ t.br.toNat = s.br.toNat ^^^ r.toNat ∧ t.bd.toNat = (s.bd.toNat + 15) % 16
      ∧ (t.skip = true ↔ s.skip = true ∨ s.bd.toNat = 0)
      ∧ t = { s with a := t.a, ram := t.ram, b := t.b, skip := t.skip })
    ∧ (∃ t, exec (.xis r) s = .next t ∧ t.a = s.m ∧ StoresOnly s.ramAddr s.a s t
      ∧ t.br.toNat = s.br.toNat ^^^ r.toNat ∧ t.bd.toNat = (s.bd.toNat + 1) % 16
      ∧ (t.skip = true ↔ s.skip = true ∨ s.bd.toNat = 15)
      ∧ t = { s with a := t.a, ram := t.ram, b := t.b, skip := t.skip })

/-- R191: XAD exchanges A with the digit r.d (on a 1K part, r from 0 to 3); B is unchanged. -/
def Obligations.XadExchangesDirect : Prop :=
  (∀ (r : BitVec 3) (d : Digit), EncodedBy [0x23#8, 1#1 ++ r ++ d] (.xad r d) ∧ (Instr.xad r d).cycles = 2)
  ∧ ∀ (s : State) (r : BitVec 3) (d : Digit), s.cfg.part.is2K = true ∨ r.toNat < 4 →
    ∃ t, exec (.xad r d) s = .next t ∧ t.a = s.readDigit (r.toNat * 16 + d.toNat)
      ∧ StoresOnly (r.toNat * 16 + d.toNat) s.a s t ∧ t = { s with a := t.a, ram := t.ram }

/-- On a 1K part an r field above 3 names no register: LDD, XAD and the two-byte LBI stop (U3, entry 12). -/
def Obligations.RegistersA1KPartLacks : Prop :=
  ∀ (s : State) (r : BitVec 3) (d : Digit), s.cfg.part.is2K = false → 4 ≤ r.toNat →
    exec (.ldd r d) s = .fault (.noSuchRamRegister r)
    ∧ exec (.xad r d) s = .fault (.noSuchRamRegister r)
    ∧ exec (.lbiLong r d) s = .fault (.noSuchRamRegister r)

/-- R73: RAM is 2 ^ BR_BITS registers of 16 digits; the digit address is Br * 16 + Bd; no value of B is outside the RAM
of the part; a read delivers what the last write to that digit stored. -/
def Obligations.RamAddressInRange : Prop :=
  ∀ s : State, s.cfg.part.ramDigits = 2 ^ s.cfg.part.brBits * 16
    ∧ s.cfg.part.brBits = (if s.cfg.part.is2K then 3 else 2)
    ∧ s.ramAddr = s.br.toNat * 16 + s.bd.toNat ∧ s.ramAddr < s.cfg.part.ramDigits
    ∧ (∀ i v, (s.writeDigit i v).readDigit i = v)
    ∧ (∀ i j v, j ≠ i → (s.writeDigit i v).readDigit j = s.readDigit j)

/-! ### Register reference -/

/-- R210, R211, R214: CAB copies A to Bd, CBA copies Bd to A, XABR exchanges A with Br, dropping the bits of A that do
not fit and clearing the bits of A that Br does not have. -/
def Obligations.CabCbaXabrTransfers : Prop :=
  EncodedBy [0x50#8] .cab ∧ EncodedBy [0x4E#8] .cba ∧ EncodedBy [0x12#8] .xabr
  ∧ Instr.cab.cycles = 1 ∧ Instr.cba.cycles = 1 ∧ Instr.xabr.cycles = 1 ∧ Instr.cab.isLbi = false
  ∧ ∀ s : State,
    (∃ t, exec .cab s = .next t ∧ t.bd = s.a ∧ t.br = s.br ∧ t = { s with b := t.b } ∧ StoresNothing s t)
    ∧ (∃ t, exec .cba s = .next t ∧ t.a = s.bd ∧ t = { s with a := t.a } ∧ StoresNothing s t)
    ∧ (∃ t, exec .xabr s = .next t ∧ t.br.toNat = s.a.toNat % 2 ^ s.cfg.part.brBits
      ∧ t.a.toNat = s.br.toNat ∧ t.bd = s.bd
      ∧ t = { s with a := t.a, b := t.b } ∧ StoresNothing s t)

/-- LBI r,d loads B with r.d in both forms; the one-byte form clears Br[2] (D26, entry 40); the two-byte form has d itself in
its low four bits (R212 but for its aside on 33 8F, entry 49), and on a 1K part r from 0 to 3. One cycle per byte (R120). -/
def Obligations.LbiLoadsB : Prop :=
  (∀ (r : BitVec 2) (n : Digit), 8 ≤ n.toNat →
    EncodedBy [0b00#2 ++ r ++ n] (.lbiShort r (n + 1#4)) ∧ (Instr.lbiShort r (n + 1#4)).cycles = 1)
  ∧ (∀ (r : BitVec 3) (d : Digit), EncodedBy [0x33#8, 1#1 ++ r ++ d] (.lbiLong r d) ∧ (Instr.lbiLong r d).cycles = 2)
  ∧ ∀ s : State,
    (∀ (r : BitVec 2) (d : Digit), ∃ t, exec (.lbiShort r d) s = .next t
      ∧ t.br.toNat = r.toNat ∧ t.bd = d ∧ t = { s with b := t.b } ∧ StoresNothing s t)
    ∧ (∀ (r : BitVec 3) (d : Digit), s.cfg.part.is2K = true ∨ r.toNat < 4 → ∃ t, exec (.lbiLong r d) s = .next t
      ∧ t.br = r ∧ t.bd = d ∧ t = { s with b := t.b } ∧ StoresNothing s t)

/-- R213: LEI loads all four bits of EN and nothing else; the L drivers, SO and SK follow the new EN at once (R26 to R28, R36,
R37): SK shows SKL with EN[0] = 1, and with EN[0] = 0 a 0 or, of a running machine, the clock, by SKL. -/
def Obligations.LeiLoadsEn : Prop :=
  (∀ y : Digit, EncodedBy [0x33#8, 6#4 ++ y] (.lei y) ∧ (Instr.lei y).cycles = 2)
  ∧ ∀ (s : State) (y : Digit), ∃ t, exec (.lei y) s = .next t ∧ t.en = y ∧ t = { s with en := t.en }
    ∧ (y.getLsbD 2 = true → t.lDrive false = some s.q) ∧ (y.getLsbD 2 = false → t.lDrive false = none)
    ∧ (y.getLsbD 0 = true → t.soDrive = y.getLsbD 3 ∧ t.skDrive = .level s.skl)
    ∧ (y.getLsbD 0 = false → t.soDrive = (y.getLsbD 3 && s.sio.getLsbD 3))
    ∧ (y.getLsbD 0 = false → s.skl = false → t.skDrive = .level false)
    ∧ (y.getLsbD 0 = false → s.skl = true → s.isStopped = false → t.skDrive = .clock)
    ∧ StoresNothing s t

/-! ### Tests -/

/-- R220, R221, R224: SKC, SKE and SKMBZ n set SKIP exactly on their condition and change nothing else. -/
def Obligations.SkcSkeSkmbzSkip : Prop :=
  EncodedBy [0x20#8] .skc ∧ EncodedBy [0x21#8] .ske
  ∧ EncodedBy [0x01#8] .skmbz0 ∧ EncodedBy [0x11#8] .skmbz1 ∧ EncodedBy [0x03#8] .skmbz2 ∧ EncodedBy [0x13#8] .skmbz3
  ∧ (∀ i ∈ [Instr.skc, .ske, .skmbz0, .skmbz1, .skmbz2, .skmbz3], i.cycles = 1)
  ∧ ∀ s : State,
    (∃ t, exec .skc s = .next t ∧ (t.skip = true ↔ s.skip = true ∨ s.c = true)
      ∧ t = { s with skip := t.skip } ∧ StoresNothing s t)
    ∧ (∃ t, exec .ske s = .next t ∧ (t.skip = true ↔ s.skip = true ∨ s.a = s.m)
      ∧ t = { s with skip := t.skip } ∧ StoresNothing s t)
    ∧ ∀ p ∈ [(Instr.skmbz0, 0), (.skmbz1, 1), (.skmbz2, 2), (.skmbz3, 3)],
      ∃ t, exec p.1 s = .next t ∧ (t.skip = true ↔ s.skip = true ∨ s.m.getLsbD p.2 = false)
        ∧ t = { s with skip := t.skip } ∧ StoresNothing s t

/-- R225: SKT skips if TOV is set, and resets it then. -/
def Obligations.SktTestsAndResetsTov : Prop :=
  EncodedBy [0x41#8] .skt ∧ Instr.skt.cycles = 1
  ∧ ∀ s : State, ∃ t, exec .skt s = .next t ∧ t.tov = false
    ∧ (t.skip = true ↔ s.skip = true ∨ s.tov = true)
    ∧ t = { s with tov := t.tov, skip := t.skip } ∧ StoresNothing s t

/-- SKGZ and SKGBZ n test a sample of the G pins, not register G (D16, entry 8), in two cycles. -/
def Obligations.SkgzSkgbzTestPins : Prop :=
  EncodedBy [0x33#8, 0x21#8] .skgz ∧ EncodedBy [0x33#8, 0x01#8] .skgbz0 ∧ EncodedBy [0x33#8, 0x11#8] .skgbz1
  ∧ EncodedBy [0x33#8, 0x03#8] .skgbz2 ∧ EncodedBy [0x33#8, 0x13#8] .skgbz3
  ∧ (∀ i ∈ [Instr.skgz, .skgbz0, .skgbz1, .skgbz2, .skgbz3], i.cycles = 2)
  ∧ ∀ s : State,
    (∃ t, exec .skgz s = .next t ∧ (t.skip = true ↔ s.skip = true ∨ s.sample.g = 0#4)
      ∧ t = { s.takeSample with skip := t.skip } ∧ StoresNothing s t)
    ∧ ∀ p ∈ [(Instr.skgbz0, 0), (.skgbz1, 1), (.skgbz2, 2), (.skgbz3, 3)],
      ∃ t, exec p.1 s = .next t ∧ (t.skip = true ↔ s.skip = true ∨ s.sample.g.getLsbD p.2 = false)
        ∧ t = { s.takeSample with skip := t.skip } ∧ StoresNothing s t

/-! ### Input and output -/

/-- ING, ININ and INL read one sample of their pins in two cycles (D16, entry 8); ININ is refused without IN pins (D22, entry
14), which are there on a 28-pin part that is not bonded for 24 or 20 pins only (`HAS_IN`, R6, entry 21). The I/O lines that a
chip shows to the outside: 23, 19 or 15 (R2; which lines these are, entry 52), IN3 to IN0 on a 28-pin package only, and on a
20-pin package not all of the G lines (R230), nothing more being known of which ones remain (N3, entry 47). A line that is
there shows G, D, Q by EN[2] or the read strobe, SO or SK (R52); an input shows nothing. -/
def Obligations.InputsReadPins : Prop :=
  EncodedBy [0x33#8, 0x2A#8] .ing ∧ EncodedBy [0x33#8, 0x28#8] .inin ∧ EncodedBy [0x33#8, 0x2E#8] .inl
  ∧ Instr.ing.cycles = 2 ∧ Instr.inin.cycles = 2 ∧ Instr.inl.cycles = 2
  ∧ ∀ s : State,
    (s.hasIn = true ↔ s.cfg.part.pins = 28 ∧ s.cfg.options.bonding ≠ .pins24 ∧ s.cfg.options.bonding ≠ .pins20
      ∧ s.cfg.options.bonding ≠ .pins24And20)
    ∧ (∃ t, exec .ing s = .next t ∧ t.a = s.sample.g ∧ t = { s.takeSample with a := t.a } ∧ StoresNothing s t)
    ∧ (s.hasIn = true → ∃ t, exec .inin s = .next t ∧ t.a = s.sample.inp
      ∧ t = { s.takeSample with a := t.a } ∧ StoresNothing s t)
    ∧ (s.hasIn = false → exec .inin s = .refused .noInPins)
    ∧ (∃ t, exec .inl s = .next t ∧ t.a.toNat = s.sample.l.toNat % 16
      ∧ StoresOnly s.ramAddr (BitVec.ofNat 4 (s.sample.l.toNat / 16)) s t
      ∧ t = { s.takeSample with a := t.a, ram := t.ram })
    ∧ (ioLines s.cfg).Nodup
    ∧ (s.cfg.options.bonding = .pins28 → (ioLines s.cfg).length = s.cfg.part.ioLineCount)
    ∧ (let in20 := s.cfg.part.pins = 20 ∨ s.cfg.options.bonding = .pins20
      (ioLines s.cfg).length = (if s.hasIn then 23 else if in20 then 15 else 19)
      ∧ (¬in20 → ∀ line, line ∈ ioLines s.cfg ∨ ∃ k, line = .inp k)
      ∧ (in20 → ∃ k, .g k ∉ ioLines s.cfg))
    ∧ (∀ k, .inp k ∈ ioLines s.cfg ↔ s.hasIn = true)
    ∧ (∀ readStrobe line, s.pin readStrobe line = .absent ↔ line ∉ ioLines s.cfg)
    ∧ (∀ readStrobe, ∀ line ∈ ioLines s.cfg, s.pin readStrobe line = match line with
        | .g k => .level (s.g.getLsbD k)
        | .d k => if k = 0 ∧ s.cfg.options.dualClock ≠ .normal then .undriven else .level (s.d.getLsbD k)
        | .l k => if s.en.getLsbD 2 = true ∨ s.cfg.options.microbus = true ∧ readStrobe = true
            then .level (s.q.getLsbD k) else .undriven
        | .so => .level s.soDrive
        | .sk => s.skDrive
        | .inp _ | .si => .undriven)

/-- INIL reads IL3, CKO (or 1, D24, entry 38), 0 and IL0 into A and resets the latches; without IN pins A[3] and A[0]
are free (D22, entry 14). -/
def Obligations.InilReadsAndClearsIl : Prop :=
  EncodedBy [0x33#8, 0x29#8] .inil ∧ Instr.inil.cycles = 2
  ∧ ∀ s : State, ∃ t, exec .inil s = .next t
    ∧ t.a.getLsbD 1 = false
    ∧ (s.cfg.options.cko = .inputWithLoad ∨ s.cfg.options.cko = .inputHighZ → t.a.getLsbD 2 = s.sample.cko)
    ∧ (s.cfg.options.cko = .clockOutput ∨ s.cfg.options.cko = .haltPort → t.a.getLsbD 2 = true)
    ∧ (s.hasIn = true → t.a.getLsbD 3 = s.il3 ∧ t.a.getLsbD 0 = s.il0)
    ∧ t.il3 = false ∧ t.il0 = false
    ∧ t = { s with a := t.a, il3 := t.il3, il0 := t.il0, pinQueue := t.pinQueue, freeIndex := s.freeIndex + 1 }
    ∧ StoresNothing s t

/-- R234, R235, R236: OBD copies Bd to D and so to the D drivers, but for D0 where it is an oscillator input; OGI and OMG
write G. -/
def Obligations.ObdOgiOmgOutputs : Prop :=
  EncodedBy [0x33#8, 0x3E#8] .obd ∧ (∀ y : Digit, EncodedBy [0x33#8, 5#4 ++ y] (.ogi y)) ∧ EncodedBy [0x33#8, 0x3A#8] .omg
  ∧ Instr.obd.cycles = 2 ∧ (∀ y : Digit, (Instr.ogi y).cycles = 2) ∧ Instr.omg.cycles = 2
  ∧ ∀ s : State,
    (∃ t, exec .obd s = .next t ∧ t.d = s.bd ∧ t = { s with d := t.d } ∧ StoresNothing s t
      ∧ (∀ k < 4, t.dDrive k = if k = 0 ∧ s.cfg.options.dualClock ≠ .normal then none else some (s.bd.getLsbD k)))
    ∧ (∀ y : Digit, ∃ t, exec (.ogi y) s = .next t ∧ t.g = y ∧ t = { s with g := t.g } ∧ StoresNothing s t)
    ∧ (∃ t, exec .omg s = .next t ∧ t.g = s.m ∧ t = { s with g := t.g } ∧ StoresNothing s t)

/-- R237: XAS exchanges A with SIO and copies C to SKL. -/
def Obligations.XasExchangesSio : Prop :=
  EncodedBy [0x4F#8] .xas ∧ Instr.xas.cycles = 1
  ∧ ∀ s : State, ∃ t, exec .xas s = .next t ∧ t.a = s.sio ∧ t.sio = s.a ∧ t.skl = s.c
    ∧ t = { s with a := t.a, sio := t.sio, skl := t.skl } ∧ StoresNothing s t

/-! ### All instructions -/

/-- exec answers a next state exactly where the spec defines the instruction on the part and the options: the stops of
entries 12 to 14 are the only ones. -/
def Obligations.ExecCompletesExactlyWhenDefined : Prop :=
  ∀ (i : Instr) (s : State), (∃ t, exec i s = .next t) ↔
    (i.fitsPart s.cfg.part = true ∧ (i = .it → s.cfg.options.timer = .timeBase)
      ∧ (i = .inin → s.hasIn = true))

/-- Who writes each register (R20 to R22, R23, R24, R29, R30, R33 to R35, R38 to R42, R45, R47 to R50) and RAM: an
instruction's own effect changes it only if the instruction is one of those named; LQID restores the saved skip by its
parameter only (entry 17). No effect changes the others. -/
def Obligations.RegisterWriters : Prop :=
  ∀ (i : Instr) (s t : State), exec i s = .next t →
    (t.a = s.a ∨ i ∈ [.asc, .add, .adt, .casc, .clra, .comp, .xor, .ctma, .cqma, .cba, .xabr, .ing, .inin, .inil, .inl, .xas]
      ∨ (∃ y, i = .aisc y) ∨ (∃ r, i = .ld r ∨ i = .x r ∨ i = .xds r ∨ i = .xis r) ∨ ∃ r d, i = .ldd r d ∨ i = .xad r d)
    ∧ (t.b = s.b ∨ i = .cab ∨ i = .xabr ∨ (∃ r d, i = .lbiShort r d) ∨ (∃ r d, i = .lbiLong r d)
      ∨ (∃ r, i = .ld r ∨ i = .x r ∨ i = .xds r ∨ i = .xis r) ∨ ∃ y, i = .stii y)
    ∧ (t.c = s.c ∨ i = .asc ∨ i = .casc ∨ i = .sc ∨ i = .rc)
    ∧ (t.d = s.d ∨ i = .obd)
    ∧ (t.en = s.en ∨ ∃ y, i = .lei y)
    ∧ (t.g = s.g ∨ i = .omg ∨ ∃ y, i = .ogi y)
    ∧ (t.il3 = s.il3 ∧ t.il0 = s.il0 ∨ i = .inil)
    ∧ (t.q = s.q ∨ i = .camq ∨ i = .lqid)
    ∧ (t.sio = s.sio ∧ t.skl = s.skl ∨ i = .xas)
    ∧ (t.t = s.t ∧ t.tp = s.tp ∨ i = .camt)
    ∧ (t.tov = s.tov ∨ i = .camt ∨ i = .skt)
    ∧ (t.sa = s.sa ∧ t.sb = s.sb ∧ t.sc = s.sc
      ∨ (∃ a, i = .jsrp a) ∨ (∃ a, i = .jsr a) ∨ i = .lqid ∨ i = .ret ∨ i = .retsk)
    ∧ (t.pc = s.pc ∨ i = .jid ∨ (∃ a, i = .jmp a) ∨ (∃ a, i = .jpPages23 a) ∨ (∃ a, i = .jpPage a)
      ∨ (∃ a, i = .jsrp a) ∨ (∃ a, i = .jsr a) ∨ i = .ret ∨ i = .retsk)
    ∧ (t.skip = s.skip ∨ i ∈ [.asc, .casc, .skc, .ske, .skgz, .skgbz0, .skgbz1, .skgbz2, .skgbz3, .skmbz0, .skmbz1, .skmbz2,
        .skmbz3, .skt, .ret, .retsk]
      ∨ (∃ y, i = .aisc y) ∨ (∃ r, i = .xds r ∨ i = .xis r) ∨ i = .lqid ∧ s.cfg.params.lqidPopRestoresSkip = true)
    ∧ (t.sskip = s.sskip ∨ i = .ret ∨ i = .retsk ∨ i = .lqid ∧ s.cfg.params.lqidPopRestoresSkip = true)
    ∧ (t.halted = s.halted ∨ i = .halt) ∧ (t.idle = s.idle ∨ i = .it)
    ∧ (t.ram = s.ram
      ∨ i ∈ [.ctma, .cqma, .inl, .rmb0, .rmb1, .rmb2, .rmb3, .smb0, .smb1, .smb2, .smb3]
      ∨ (∃ y, i = .stii y) ∨ (∃ r, i = .x r ∨ i = .xds r ∨ i = .xis r) ∨ ∃ r d, i = .xad r d)
    ∧ t.intReq = s.intReq ∧ t.lbiChain = s.lbiChain ∧ t.clockStopped = s.clockStopped
    ∧ t.cfg = s.cfg ∧ t.rom = s.rom ∧ t.ramEpoch = s.ramEpoch ∧ t.events = s.events

/-! ### Encoding -/

/-- Decode and encode agree: every well-formed instruction, with every operand, in the page context its encoding stands
for, is read back from its bytes. -/
def Obligations.DecodeEncodeRoundTrip : Prop :=
  ∀ (i : Instr) (in23 : Bool) (rest : List Byte), i.wf = true → i.fitsPage in23 = true →
    decode in23 (encode i ++ rest) = .ok (i, rest)

/-- The other direction (R113): bytes that decode are the encoding of the well-formed instruction they decode to, and
the instruction stands in its page context. -/
def Obligations.DecodedBytesAreTheEncoding : Prop :=
  ∀ (in23 : Bool) (bytes rest : List Byte) (i : Instr), decode in23 bytes = .ok (i, rest) →
    i.wf = true ∧ i.fitsPage in23 = true ∧ bytes = encode i ++ rest

/-- R108, R109, R110: with two bytes at hand decoding fails exactly on the second bytes after 33 that Table 3 does not
list. -/
def Obligations.OnlyUnlistedSecondBytesFail : Prop :=
  ∀ (in23 : Bool) (b1 b2 : Byte) (rest : List Byte),
    (∀ p, decode in23 (b1 :: b2 :: rest) ≠ .ok p) ↔
      b1 = 0x33#8 ∧ ¬ (b2.toNat ∈ [0x01, 0x03, 0x11, 0x13, 0x21, 0x28, 0x29, 0x2A, 0x2C, 0x2E, 0x2F, 0x38, 0x39, 0x3A, 0x3C, 0x3E, 0x3F]
        ∨ (0x50 ≤ b2.toNat ∧ b2.toNat ≤ 0x6F) ∨ 0x80 ≤ b2.toNat)

/-- Words written out from Table 3, one of every family (sanity). -/
def Obligations.SampleWordsDecode : Prop :=
  decode false [0b00110000#8] = .ok (.asc, [])
  ∧ decode false [0b01100001#8, 0b00100011#8] = .ok (.jmp 0x123#11, [])
  ∧ decode false [0b00100011#8, 0b10111111#8] = .ok (.xad 3#3 15#4, [])
  ∧ decode true [0b00011110#8] = .ok (.lbiShort 1#2 15#4, [])
  ∧ decode false [0b00110011#8, 0b00010001#8] = .ok (.skgbz1, [])
  ∧ decode false [0b01001111#8] = .ok (.xas, [])

/-! ### Sequencing -/

/-- A step runs the decoded instruction: where the bytes at PC decode to i, in the page context of the address PC + 1 (R106,
D3, entry 30; without bit 10 on a 1K part, R71, entry 45), and nothing is skipped, the step is exec of i with PC after i and
LBICHAIN set by i, with the ticks of i's cycles around it: in the spec's default phase after it (D1, U16, entry 19), else as
`TICK_PHASE` divides them. -/
def Obligations.StepRunsDecodedInstruction : Prop :=
  ∀ (s : State) (i : Instr) (rest : List Byte), s.Running →
    decode s.pageContext [s.romRead s.pc, s.romRead (s.pc + 1#11)] = .ok (i, rest) →
    s.skip = false → (s.lbiChain && i.isLbi) = false →
    (s.cfg.params.tickPhase = { ticksBefore := 0, camtTicks := false } →
      step s =
        match exec i { s with pc := s.pc + BitVec.ofNat 11 i.length, lbiChain := i.isLbi } with
        | .next t => .next (State.ticks i.isCamt i.cycles t)
        | .fault f => .fault f
        | .refused r => .refused r)
    ∧ (let n := min s.cfg.params.tickPhase.ticksBefore i.cycles
      let camt := i.isCamt && !s.cfg.params.tickPhase.camtTicks
      step s =
        match exec i { State.ticks camt n { s with pc := s.pc + BitVec.ofNat 11 i.length } with lbiChain := i.isLbi } with
        | .next t => .next (State.ticks camt (i.cycles - n) t)
        | .fault f => .fault f
        | .refused r => .refused r)

/-- With SKIP = 1 the decoded instruction, whatever it is and however long (D4, entry 31), is passed over: PC moves past
it, SKIP and LBICHAIN are cleared, so that a skipped LBI starts no chain (D5, entry 32), and as many cycles pass as it has
bytes (one for JID and LQID). -/
def Obligations.SkippedInstructionIsPassedOver : Prop :=
  ∀ (s : State) (i : Instr) (rest : List Byte), s.Running →
    decode s.pageContext [s.romRead s.pc, s.romRead (s.pc + 1#11)] = .ok (i, rest) →
    s.skip = true →
    step s = .next (State.ticks false (encode i).length
      { s with pc := s.pc + BitVec.ofNat 11 (encode i).length, skip := false, lbiChain := false })

/-- R119 with D5 (entry 32): while LBICHAIN = 1 an LBI of either encoding is passed over, and LBICHAIN stays 1. -/
def Obligations.ChainedLbiIsPassedOver : Prop :=
  ∀ (s : State) (i : Instr) (rest : List Byte), s.Running →
    decode s.pageContext [s.romRead s.pc, s.romRead (s.pc + 1#11)] = .ok (i, rest) →
    s.skip = false → s.lbiChain = true → ((∃ r d, i = .lbiShort r d) ∨ ∃ r d, i = .lbiLong r d) →
    step s = .next (State.ticks false (encode i).length { s with pc := s.pc + BitVec.ofNat 11 (encode i).length })

/-- Bytes that are no instruction stop the machine, skipped or not (D15, entry 11). -/
def Obligations.UndefinedEncodingFaults : Prop :=
  ∀ s : State, s.Running → s.romRead s.pc = 0x33#8 →
    ¬ ((s.romRead (s.pc + 1#11)).toNat ∈ [0x01, 0x03, 0x11, 0x13, 0x21, 0x28, 0x29, 0x2A, 0x2C, 0x2E, 0x2F, 0x38, 0x39, 0x3A, 0x3C, 0x3E, 0x3F]
      ∨ (0x50 ≤ (s.romRead (s.pc + 1#11)).toNat ∧ (s.romRead (s.pc + 1#11)).toNat ≤ 0x6F)
      ∨ 0x80 ≤ (s.romRead (s.pc + 1#11)).toNat) →
    step s = .fault (.undefinedEncoding (.undefinedSecondByte (s.romRead (s.pc + 1#11))))

/-- R71: a ROM word depends on the address modulo the size of the ROM, so on 1K parts bit 10 is ignored. D14 (entry 37)
keeps PC at eleven bits, but bit 10 has no effect there on what is fetched, the page context of JP and JSRP included
(R106, entry 45), and a JP in pages 2 and 3 goes to the same ROM word whatever it is. -/
def Obligations.RomAddressIsReduced : Prop :=
  ∀ (s : State) (i j : RomAddr),
    (s.cfg.part.is2K = false → i.toNat % 1024 = j.toNat % 1024 →
      s.romRead i = s.romRead j ∧ State.fetch { s with pc := i } = State.fetch { s with pc := j })
    ∧ (∀ v, (s.programByte i v).romRead i = v
        ∧ (s.romIndex j ≠ s.romIndex i → (s.programByte i v).romRead j = s.romRead j))
    ∧ (s.cfg.part.is2K = true → (s.romIndex j = s.romIndex i ↔ j = i))
    ∧ s.romIndex i = i.toNat % (if s.cfg.part.is2K then 2048 else 1024)
    ∧ (s.pageContext = true ↔ 0x080 ≤ s.romIndex (s.pc + 1#11) ∧ s.romIndex (s.pc + 1#11) ≤ 0x0FF)
    ∧ (0x080 ≤ s.romIndex s.pc → s.romIndex s.pc ≤ 0x0FF → ∀ a : BitVec 7,
        ∃ t, exec (.jpPages23 a) s = .next t ∧ s.romIndex t.pc = 0x080 + a.toNat)

/-- R42, R307: three levels. Four pushes and four pops give back the last three addresses, the oldest being lost; the
fourth pop repeats the third (D9, entry 36). Each pop, of whatever state, moves SSKIP to SKIP and clears it (R258, D8, entry
35), so that both are 0 after two. -/
def Obligations.StackHasThreeLevels : Prop :=
  ∀ (s : State) (p1 p2 p3 p4 : RomAddr),
    let pushed := (((s.push p1).push p2).push p3).push p4
    pushed.pop.pc = p4 ∧ pushed.pop.pop.pc = p3 ∧ pushed.pop.pop.pop.pc = p2 ∧ pushed.pop.pop.pop.pop.pc = p2
    ∧ (∀ u : State, u.pop.skip = u.sskip ∧ u.pop.sskip = false)
    ∧ pushed.pop.skip = s.sskip ∧ pushed.pop.sskip = false
    ∧ pushed.pop = { s with pc := p4, sa := p3, sb := p2, sc := p2, skip := s.sskip, sskip := false }
    ∧ pushed.pop.pop.pop.pop
      = { s with pc := p2, sa := p2, sb := p2, sc := p2, skip := false, sskip := false }

/-! ### The interrupt -/

/-- Where the interrupt is taken (R254, D6, entry 33). A running machine with EN[1] = 0 or no request fetches. With EN[1]
and INTREQ set it takes the interrupt exactly where the next instruction is no transfer of control and no LBI of a run;
before the first LBI of a run as `ACK_BEFORE_FIRST_LBI` says. Elsewhere it fetches. The transfer of control instructions are
JID, JMP, JP in both forms, JSRP, JSR, RET, RETSK, HALT and IT, and no others (R254 d); LBI counts in both encodings (R254 e). -/
def Obligations.InterruptBoundary : Prop :=
  (∀ i : Instr, i.isTransferOfControl = true ↔
    i = .jid ∨ (∃ a, i = .jmp a) ∨ (∃ a, i = .jpPages23 a) ∨ (∃ a, i = .jpPage a) ∨ (∃ a, i = .jsrp a) ∨ (∃ a, i = .jsr a)
      ∨ i = .ret ∨ i = .retsk ∨ i = .halt ∨ i = .it)
  ∧ (∀ i : Instr, i.isLbi = true ↔ (∃ r d, i = .lbiShort r d) ∨ ∃ r d, i = .lbiLong r d)
  ∧ ∀ s : State, s.events = [] → s.isHalted = false → s.idle = false →
    (s.en.getLsbD 1 = false ∨ s.intReq = false → s.Running)
    ∧ (s.en.getLsbD 1 = true → s.intReq = true → ∀ (i : Instr) (rest : List Byte),
      decode s.pageContext [s.romRead s.pc, s.romRead (s.pc + 1#11)] = .ok (i, rest) →
      (i.isTransferOfControl = false → i.isLbi = false → step s = .next s.interrupt)
      ∧ (i.isTransferOfControl = true → s.Running)
      ∧ (i.isLbi = true → s.lbiChain = true → s.Running)
      ∧ (i.isLbi = true → s.lbiChain = false → s.cfg.params.ackBeforeFirstLbi = true → step s = .next s.interrupt)
      ∧ (i.isLbi = true → s.lbiChain = false → s.cfg.params.ackBeforeFirstLbi = false → s.Running))

/-- R255: the interrupt entry, in place of an instruction: PC pushed, SKIP saved and cleared, EN[1] and the request
cleared, PC at 0FF, nothing else changed; then (D1's order, entry 19) the ticks of `INT_ENTRY_CYCLES`, whose number the
spec leaves open (D29, entry 6). -/
def Obligations.InterruptEntrySavesState : Prop :=
  ∀ s : State, s.events = [] → s.acknowledges = true →
    ∃ t, step s = .next (State.ticks false s.cfg.params.intEntryCycles t)
      ∧ t.sa = s.pc ∧ t.sb = s.sa ∧ t.sc = s.sb ∧ t.pc.toNat = 0x0FF
      ∧ t.sskip = s.skip ∧ t.skip = false ∧ t.intReq = false
      ∧ (∀ k < 4, t.en.getLsbD k = (s.en.getLsbD k && k != 1))
      ∧ t = { s with sa := t.sa, sb := t.sb, sc := t.sc, pc := t.pc, sskip := t.sskip, skip := t.skip
                     intReq := t.intReq, en := t.en }
      ∧ StoresNothing s t

/-- A routine that leaves the stack and SSKIP alone returns by RET to the interrupted address with the interrupted skip
status; the old SC is lost (V-ST-5; D8, D9, entries 35, 36). RETSK returns there with SKIP set. -/
def Obligations.ReturnFromInterrupt : Prop :=
  ∀ s u t : State, u.sa = s.interrupt.sa → u.sb = s.interrupt.sb → u.sc = s.interrupt.sc → u.sskip = s.interrupt.sskip →
    (exec .ret u = .next t ∨ exec .retsk u = .next t) →
    t.pc = s.pc ∧ t.sa = s.sa ∧ t.sb = s.sb ∧ t.sc = s.sb ∧ t.sskip = false ∧ t.en = u.en
    ∧ (exec .ret u = .next t → t.skip = s.skip) ∧ (exec .retsk u = .next t → t.skip = true)

/-- How events reach the machine (R51, R86, D1, entry 7): a step delivers the next event and does nothing else; an entry
`quiet`, or no entry, lets the machine take a step of its own. What the pulses do to a running part: one on IN1 sets the
request latch if the interrupt is enabled or the part latches pulses while it is not (R253, D7, entry 34), and no
instruction's effect changes the latch, LEI included; one on IN0 or IN3 sets IL0 or IL3 (R30). Parts without IN pins have
none of this (entry 26). -/
def Obligations.PulseLatches : Prop :=
  ∀ s : State,
    (∀ e rest, s.events = e :: rest → e ≠ .quiet → step s = .next (State.deliver { s with events := rest } e))
    ∧ (∀ rest, s.events = .quiet :: rest → step s = machineStep { s with events := rest })
    ∧ (s.events = [] → step s = machineStep s)
    ∧ (∀ i t, exec i s = .next t → t.intReq = s.intReq)
    ∧ s.deliver .pulseIN1 = { s.takePulse with intReq := (s.deliver .pulseIN1).intReq }
    ∧ (s.hasIn = true → s.isStopped = false →
      ((s.deliver .pulseIN1).intReq = true ↔
        s.intReq = true ∨ s.en.getLsbD 1 = true ∨ s.cfg.params.in1PulseLatchedWhenDisabled = true)
      ∧ s.deliver .pulseIN1 = { s with intReq := (s.deliver .pulseIN1).intReq }
      ∧ s.deliver .pulseIN0 = { s with il0 := true } ∧ s.deliver .pulseIN3 = { s with il3 := true })
    ∧ (s.hasIn = false → s.isStopped = false →
      s.deliver .pulseIN0 = s ∧ s.deliver .pulseIN1 = s ∧ s.deliver .pulseIN3 = s)

/-! ### Timer and serial port -/

/-- R263: each cycle adds 1 to TP:T modulo 1024; a wrap sets TOV and ends IDLE. In IDLE a step is one such count and nothing
else (R272, D17, entry 42); in dual-clock mode too the cycles are those of the running clock (entry 50). In HALT there is
none, and a step answers the same state (R269, D18, entry 43). -/
def Obligations.TimeBaseCountsCycles : Prop :=
  ∀ s : State, s.cfg.options.timer = .timeBase →
    (∀ n, let t := State.ticks false n s
      t.count10 = (s.count10 + n) % 1024
      ∧ (t.tov = true ↔ s.tov = true ∨ 1024 ≤ s.count10 + n)
      ∧ (t.idle = true ↔ s.idle = true ∧ s.count10 + n < 1024))
    ∧ s.timeBase = { s with t := s.timeBase.t, tp := s.timeBase.tp, tov := s.timeBase.tov, idle := s.timeBase.idle }
    ∧ (s.events = [] → s.isHalted = false → s.idle = true → step s = .next s.timeBase)
    ∧ (s.events = [] → s.isHalted = true → step s = .next s)

/-- R264: with the event counter, cycles leave T and TOV alone; a pulse on IN2 adds 1 to T modulo 256 and its wrap sets
TOV (in HALT, possibly, U20, entry 9); parts without IN pins never count; IT has no meaning; MICROBUS excludes it. -/
def Obligations.EventCounterCountsPulses : Prop :=
  ∀ s : State, s.cfg.options.timer = .eventCounter →
    (∀ camt n, (State.ticks camt n s).t = s.t ∧ (State.ticks camt n s).tov = s.tov)
    ∧ (s.hasIn = true → s.isStopped = false →
        (s.deliver .pulseIN2).t.toNat = (s.t.toNat + 1) % 256
        ∧ ((s.deliver .pulseIN2).tov = true ↔ s.tov = true ∨ s.t.toNat = 255)
        ∧ s.deliver .pulseIN2 = { s with t := (s.deliver .pulseIN2).t, tov := (s.deliver .pulseIN2).tov })
    ∧ (s.hasIn = false → (s.deliver .pulseIN2).t = s.t ∧ (s.deliver .pulseIN2).tov = s.tov)
    ∧ (∀ t, exec .it s ≠ .next t)
    ∧ (s.cfg.legal = true → s.cfg.options.microbus = false)

/-- R274: with EN[0] = 0 every cycle shifts SIO left and takes SI, sampled at that tick, into bit 0, whatever EN[3] and
SKL are; four cycles replace all of SIO; SO shows bit 3 if EN[3] = 1. -/
def Obligations.SerialShift : Prop :=
  ∀ s : State, s.en.getLsbD 0 = false →
    (∀ camt, (s.tick camt).sio.toNat = (s.sio.toNat * 2 + s.sample.si.toNat) % 16)
    ∧ s.serial = { s.takeSample with sio := s.serial.sio }
    ∧ (s.en.getLsbD 3 = true → s.soDrive = s.sio.getLsbD 3)
    ∧ ∀ camt p1 p2 p3 p4 rest, s.pinQueue = p1 :: p2 :: p3 :: p4 :: rest →
        let t := State.ticks camt 4 s
        t.pinQueue = rest
        ∧ t.sio.getLsbD 3 = p1.si ∧ t.sio.getLsbD 2 = p2.si ∧ t.sio.getLsbD 1 = p3.si ∧ t.sio.getLsbD 0 = p4.si

/-- R275, D25 (entry 39): with EN[0] = 1 a pulse on SI counts SIO down, 0 going to 15, and cycles leave SIO alone; with
EN[0] = 0 the pulse has no effect. -/
def Obligations.SerialCounter : Prop :=
  ∀ s : State, s.isStopped = false →
    (s.en.getLsbD 0 = true →
      (s.deliver .pulseSI).sio.toNat = (s.sio.toNat + 15) % 16
      ∧ s.deliver .pulseSI = { s with sio := (s.deliver .pulseSI).sio }
      ∧ ∀ camt n, (State.ticks camt n s).sio = s.sio)
    ∧ (s.en.getLsbD 0 = false → s.deliver .pulseSI = s)

/-- R27, R276: the mode of SIO and the outputs SO, SK and L as functions of EN, SKL, SIO and Q (SK while the machine
runs; L outside a host's read strobe). -/
def Obligations.SerialAndLOutputs : Prop :=
  State.reset.soDrive = false ∧ State.reset.skDrive = .clock
  ∧ ∀ s : State,
    (s.en.getLsbD 0 = false → ∀ camt, (s.tick camt).sio.getLsbD 0 = s.sample.si)
    ∧ (s.en.getLsbD 0 = true → (∀ camt, (s.tick camt).sio = s.sio)
        ∧ (s.isStopped = false → 0 < s.sio.toNat → (s.deliver .pulseSI).sio.toNat + 1 = s.sio.toNat))
    ∧ (s.en.getLsbD 0 = false → s.en.getLsbD 3 = false → s.soDrive = false)
    ∧ (s.en.getLsbD 0 = false → s.en.getLsbD 3 = true → s.soDrive = s.sio.getLsbD 3)
    ∧ (s.en.getLsbD 0 = true → s.soDrive = s.en.getLsbD 3)
    ∧ (s.en.getLsbD 0 = true → s.skDrive = .level s.skl)
    ∧ (s.en.getLsbD 0 = false → s.skl = false → s.skDrive = .level false)
    ∧ (s.en.getLsbD 0 = false → s.skl = true → s.isStopped = false → s.skDrive = .clock)
    ∧ (s.en.getLsbD 2 = true → s.lDrive false = some s.q)
    ∧ (s.en.getLsbD 2 = false → s.lDrive false = none)

/-- D27 (entry 41): with MICROBUS a host write, in HALT and IDLE too (the model's choice, entry 46), loads Q and clears G[0],
a host read changes nothing and the strobe puts Q on L; without MICROBUS neither does anything (entry 26). -/
def Obligations.HostWriteAndRead : Prop :=
  ∀ (s : State) (v : Byte), s.deliver .hostRead = s
    ∧ (s.cfg.options.microbus = true →
        (s.deliver (.hostWrite v)).q = v
        ∧ (∀ k < 4, (s.deliver (.hostWrite v)).g.getLsbD k = (s.g.getLsbD k && k != 0))
        ∧ s.deliver (.hostWrite v) = { s with q := v, g := (s.deliver (.hostWrite v)).g }
        ∧ s.lDrive true = some s.q)
    ∧ (s.cfg.options.microbus = false → s.deliver (.hostWrite v) = s ∧ s.lDrive true = s.lDrive false)

/-! ### HALT, IDLE and reset -/

/-- The idle state lasts (256 - T) * 4 - TP cycles (R273, D17, entry 42; of the running clock, entry 50): until then nothing
but TP:T changes, whatever TOV and INTREQ are; then T and TP are 0, TOV is set and IDLE is over. -/
def Obligations.IdleLasts : Prop :=
  ∀ s : State, s.cfg.options.timer = .timeBase → s.events = [] → s.isHalted = false → s.idle = true →
    (∀ k, k < (256 - s.t.toNat) * 4 - s.tp.toNat →
      ∃ t : State, State.run k s = .next t ∧ t.count10 = s.count10 + k ∧ t = { s with t := t.t, tp := t.tp })
    ∧ State.run ((256 - s.t.toNat) * 4 - s.tp.toNat) s
        = .next { s with t := 0#8, tp := 0#2, tov := true, idle := false }

/-- A halted machine in which nothing more happens stays as it is for ever (D18, entry 43), INTREQ or not. -/
def Obligations.HaltedIsFrozen : Prop :=
  ∀ (s : State) (n : Nat), s.events = [] → s.isHalted = true → State.run n s = .next s

/-- What enters and ends HALT, and what ends IDLE. With the HALT I/O port, HaltForce sets the HALT flip-flop (R268 b;
under option 30 = 2 by the sample, U14, entry 16) and Continue clears it (R270); without it neither does anything
(entry 26). ClockStop and ClockStart stop and restart the clock (R268 c, entry 10). Nothing else but reset ends HALT, and
only reset and the overflow of the time base end IDLE (D17, entry 42). -/
def Obligations.OnlyTheseEndHaltAndIdle : Prop :=
  (∀ (s : State) (rest : List Event),
    (s.events = .haltForce :: rest → s.cfg.options.cko = .haltPort →
      (s.cfg.options.dualClock ≠ .d0ExternalClock → step s = .next { s with events := rest, halted := true })
      ∧ (s.cfg.options.dualClock = .d0ExternalClock → ∃ t : State, step s = .next t
        ∧ (t.halted = true ↔ s.halted = true ∨ s.sample.d0Clock = false)
        ∧ t = { s with events := rest, halted := t.halted, pinQueue := t.pinQueue, freeIndex := s.freeIndex + 1 }))
    ∧ (s.events = .continueRun :: rest → s.cfg.options.cko = .haltPort →
      step s = .next { s with events := rest, halted := false })
    ∧ (s.events = .haltForce :: rest ∨ s.events = .continueRun :: rest → s.cfg.options.cko ≠ .haltPort →
      step s = .next { s with events := rest })
    ∧ (s.events = .clockStop :: rest → step s = .next { s with events := rest, clockStopped := true })
    ∧ (s.events = .clockStart :: rest → step s = .next { s with events := rest, clockStopped := false })
    ∧ (s.isHalted = true ↔ s.halted = true ∨ s.clockStopped = true))
  ∧ ∀ s t : State, step s = .next t →
    (s.isHalted = true → t.isHalted = false →
      ∃ rest, s.events = .resetPin :: rest ∨ s.events = .powerUp :: rest
        ∨ (s.events = .continueRun :: rest ∧ s.cfg.options.cko = .haltPort ∧ s.clockStopped = false
            ∧ t = { s with events := rest, halted := false })
        ∨ (s.events = .clockStart :: rest ∧ s.halted = false ∧ t = { s with events := rest, clockStopped := false }))
    ∧ (s.idle = true → t.idle = false →
      (∃ rest, s.events = .resetPin :: rest ∨ s.events = .powerUp :: rest)
      ∨ (s.cfg.options.timer = .timeBase ∧ s.count10 = 1023 ∧ t.count10 = 0 ∧ t.tov = true))

/-- Reset, whatever state the machine is in (R300, R301; the four hidden latches are D10's, entry 5). The RESET pin of a
running chip initializes it, and RAM and ROM read as before. Power-up makes every RAM digit unknown (entry 28) and
initializes the chip, unless option 29 = 1: then every register holds an unknown value (the model's choice, entry 44), until
the RESET pin initializes it. -/
def Obligations.ResetEvent : Prop :=
  ∀ (s : State) (rest : List Event),
    (s.events = .resetPin :: rest →
      ∃ t, step s = .next t ∧ t.events = rest ∧ t.Initialized ∧ StoresNothing s t ∧ t.cfg = s.cfg)
    ∧ (s.events = .powerUp :: rest →
      ∃ t, step s = .next t ∧ t.events = rest ∧ t.cfg = s.cfg
        ∧ (∀ i, t.readDigit i = Config.powerUpDigit (s.ramEpoch + 1) i) ∧ (∀ i, t.romRead i = s.romRead i)
        ∧ (s.cfg.options.noResetLogic = false → t.Initialized)
        ∧ (s.cfg.options.noResetLogic = true → t.clockStopped = false
          ∧ ∃ u : Uninitialized, u = Config.uninitialized (s.freeIndex + 1)
            ∧ t.a = u.a ∧ t.b = s.fitB u.b ∧ t.c = u.c ∧ t.d = u.d ∧ t.en = u.en ∧ t.g = u.g ∧ t.il3 = u.il3 ∧ t.il0 = u.il0
            ∧ t.skl = u.skl ∧ t.t = u.t ∧ t.tp = u.tp ∧ t.pc = u.pc ∧ t.skip = u.skip ∧ t.lbiChain = u.lbiChain
            ∧ t.sskip = u.sskip ∧ t.intReq = u.intReq ∧ t.halted = u.halted ∧ t.idle = u.idle))

/-- The state right after reset: the values that the spec lists (R55; the four hidden latches are D10's, entry 5). -/
def Obligations.ResetStateValues : Prop :=
  let r := State.reset
  r.pc = 0#11 ∧ r.a = 0#4 ∧ r.b = 0#7 ∧ r.c = false ∧ r.d = 0#4 ∧ r.en = 0#4 ∧ r.g = 0#4 ∧ r.il3 = false
  ∧ r.il0 = false ∧ r.t = 0#8 ∧ r.tp = 0#2 ∧ r.skl = true ∧ r.isHalted = false ∧ r.idle = false
  ∧ r.skip = false ∧ r.lbiChain = false ∧ r.sskip = false ∧ r.intReq = false
  ∧ r.soDrive = false ∧ r.skDrive = .clock ∧ r.lDrive false = none

/-! ### Invariants -/

/-- R89: no step changes the program memory or the configuration; every fetch reads RomRead(PC). -/
def Obligations.RomNeverChanges : Prop :=
  ∀ s t : State, step s = .next t →
    t.rom = s.rom ∧ t.cfg = s.cfg ∧ (∀ i, t.romRead i = s.romRead i)
    ∧ s.fetchBytes = [s.romRead s.pc, s.romRead (s.pc + 1#11)]

/-- Every step keeps the invariant: canonical memories of the part's size, and no more bits in B than the part has. -/
def Obligations.StepKeepsInv : Prop :=
  ∀ s t : State, s.Inv → step s = .next t → t.Inv

/-- The state after reset has the invariant. -/
def Obligations.ResetHasInv : Prop := State.reset.Inv
end

