-- ==== Sys2Proof/Laws/State.lean ====
section
/-! SUPPORT. One lemma per field per update of the state, so that no later proof unfolds a record update. -/

namespace Sys2Proof.Machine

variable (s : State)

/-! ### writeDigit -/

@[simp] theorem State.writeDigit_cfg (i : Nat) (v : Digit) : (s.writeDigit i v).cfg = s.cfg := rfl
@[simp] theorem State.writeDigit_rom (i : Nat) (v : Digit) : (s.writeDigit i v).rom = s.rom := rfl
@[simp] theorem State.writeDigit_ram (i : Nat) (v : Digit) : (s.writeDigit i v).ram = Memory.store s.ram i v := rfl
@[simp] theorem State.writeDigit_a (i : Nat) (v : Digit) : (s.writeDigit i v).a = s.a := rfl
@[simp] theorem State.writeDigit_b (i : Nat) (v : Digit) : (s.writeDigit i v).b = s.b := rfl
@[simp] theorem State.writeDigit_c (i : Nat) (v : Digit) : (s.writeDigit i v).c = s.c := rfl
@[simp] theorem State.writeDigit_d (i : Nat) (v : Digit) : (s.writeDigit i v).d = s.d := rfl
@[simp] theorem State.writeDigit_en (i : Nat) (v : Digit) : (s.writeDigit i v).en = s.en := rfl
@[simp] theorem State.writeDigit_g (i : Nat) (v : Digit) : (s.writeDigit i v).g = s.g := rfl
@[simp] theorem State.writeDigit_il3 (i : Nat) (v : Digit) : (s.writeDigit i v).il3 = s.il3 := rfl
@[simp] theorem State.writeDigit_il0 (i : Nat) (v : Digit) : (s.writeDigit i v).il0 = s.il0 := rfl
@[simp] theorem State.writeDigit_q (i : Nat) (v : Digit) : (s.writeDigit i v).q = s.q := rfl
@[simp] theorem State.writeDigit_sio (i : Nat) (v : Digit) : (s.writeDigit i v).sio = s.sio := rfl
@[simp] theorem State.writeDigit_skl (i : Nat) (v : Digit) : (s.writeDigit i v).skl = s.skl := rfl
@[simp] theorem State.writeDigit_t (i : Nat) (v : Digit) : (s.writeDigit i v).t = s.t := rfl
@[simp] theorem State.writeDigit_tp (i : Nat) (v : Digit) : (s.writeDigit i v).tp = s.tp := rfl
@[simp] theorem State.writeDigit_tov (i : Nat) (v : Digit) : (s.writeDigit i v).tov = s.tov := rfl
@[simp] theorem State.writeDigit_pc (i : Nat) (v : Digit) : (s.writeDigit i v).pc = s.pc := rfl
@[simp] theorem State.writeDigit_sa (i : Nat) (v : Digit) : (s.writeDigit i v).sa = s.sa := rfl
@[simp] theorem State.writeDigit_sb (i : Nat) (v : Digit) : (s.writeDigit i v).sb = s.sb := rfl
@[simp] theorem State.writeDigit_sc (i : Nat) (v : Digit) : (s.writeDigit i v).sc = s.sc := rfl
@[simp] theorem State.writeDigit_skip (i : Nat) (v : Digit) : (s.writeDigit i v).skip = s.skip := rfl
@[simp] theorem State.writeDigit_lbiChain (i : Nat) (v : Digit) : (s.writeDigit i v).lbiChain = s.lbiChain := rfl
@[simp] theorem State.writeDigit_sskip (i : Nat) (v : Digit) : (s.writeDigit i v).sskip = s.sskip := rfl
@[simp] theorem State.writeDigit_intReq (i : Nat) (v : Digit) : (s.writeDigit i v).intReq = s.intReq := rfl
@[simp] theorem State.writeDigit_halted (i : Nat) (v : Digit) : (s.writeDigit i v).halted = s.halted := rfl
@[simp] theorem State.writeDigit_clockStopped (i : Nat) (v : Digit) : (s.writeDigit i v).clockStopped = s.clockStopped := rfl
@[simp] theorem State.writeDigit_idle (i : Nat) (v : Digit) : (s.writeDigit i v).idle = s.idle := rfl
@[simp] theorem State.writeDigit_events (i : Nat) (v : Digit) : (s.writeDigit i v).events = s.events := rfl
@[simp] theorem State.writeDigit_pinQueue (i : Nat) (v : Digit) : (s.writeDigit i v).pinQueue = s.pinQueue := rfl
@[simp] theorem State.writeDigit_freeIndex (i : Nat) (v : Digit) : (s.writeDigit i v).freeIndex = s.freeIndex := rfl
@[simp] theorem State.writeDigit_ramEpoch (i : Nat) (v : Digit) : (s.writeDigit i v).ramEpoch = s.ramEpoch := rfl

/-! ### programByte -/

@[simp] theorem State.programByte_cfg (i : RomAddr) (v : Byte) : (s.programByte i v).cfg = s.cfg := rfl
@[simp] theorem State.programByte_rom (i : RomAddr) (v : Byte) : (s.programByte i v).rom = Memory.store s.rom (s.romIndex i) v := rfl
@[simp] theorem State.programByte_ram (i : RomAddr) (v : Byte) : (s.programByte i v).ram = s.ram := rfl
@[simp] theorem State.programByte_a (i : RomAddr) (v : Byte) : (s.programByte i v).a = s.a := rfl
@[simp] theorem State.programByte_b (i : RomAddr) (v : Byte) : (s.programByte i v).b = s.b := rfl
@[simp] theorem State.programByte_c (i : RomAddr) (v : Byte) : (s.programByte i v).c = s.c := rfl
@[simp] theorem State.programByte_d (i : RomAddr) (v : Byte) : (s.programByte i v).d = s.d := rfl
@[simp] theorem State.programByte_en (i : RomAddr) (v : Byte) : (s.programByte i v).en = s.en := rfl
@[simp] theorem State.programByte_g (i : RomAddr) (v : Byte) : (s.programByte i v).g = s.g := rfl
@[simp] theorem State.programByte_il3 (i : RomAddr) (v : Byte) : (s.programByte i v).il3 = s.il3 := rfl
@[simp] theorem State.programByte_il0 (i : RomAddr) (v : Byte) : (s.programByte i v).il0 = s.il0 := rfl
@[simp] theorem State.programByte_q (i : RomAddr) (v : Byte) : (s.programByte i v).q = s.q := rfl
@[simp] theorem State.programByte_sio (i : RomAddr) (v : Byte) : (s.programByte i v).sio = s.sio := rfl
@[simp] theorem State.programByte_skl (i : RomAddr) (v : Byte) : (s.programByte i v).skl = s.skl := rfl
@[simp] theorem State.programByte_t (i : RomAddr) (v : Byte) : (s.programByte i v).t = s.t := rfl
@[simp] theorem State.programByte_tp (i : RomAddr) (v : Byte) : (s.programByte i v).tp = s.tp := rfl
@[simp] theorem State.programByte_tov (i : RomAddr) (v : Byte) : (s.programByte i v).tov = s.tov := rfl
@[simp] theorem State.programByte_pc (i : RomAddr) (v : Byte) : (s.programByte i v).pc = s.pc := rfl
@[simp] theorem State.programByte_sa (i : RomAddr) (v : Byte) : (s.programByte i v).sa = s.sa := rfl
@[simp] theorem State.programByte_sb (i : RomAddr) (v : Byte) : (s.programByte i v).sb = s.sb := rfl
@[simp] theorem State.programByte_sc (i : RomAddr) (v : Byte) : (s.programByte i v).sc = s.sc := rfl
@[simp] theorem State.programByte_skip (i : RomAddr) (v : Byte) : (s.programByte i v).skip = s.skip := rfl
@[simp] theorem State.programByte_lbiChain (i : RomAddr) (v : Byte) : (s.programByte i v).lbiChain = s.lbiChain := rfl
@[simp] theorem State.programByte_sskip (i : RomAddr) (v : Byte) : (s.programByte i v).sskip = s.sskip := rfl
@[simp] theorem State.programByte_intReq (i : RomAddr) (v : Byte) : (s.programByte i v).intReq = s.intReq := rfl
@[simp] theorem State.programByte_halted (i : RomAddr) (v : Byte) : (s.programByte i v).halted = s.halted := rfl
@[simp] theorem State.programByte_clockStopped (i : RomAddr) (v : Byte) : (s.programByte i v).clockStopped = s.clockStopped := rfl
@[simp] theorem State.programByte_idle (i : RomAddr) (v : Byte) : (s.programByte i v).idle = s.idle := rfl
@[simp] theorem State.programByte_events (i : RomAddr) (v : Byte) : (s.programByte i v).events = s.events := rfl
@[simp] theorem State.programByte_pinQueue (i : RomAddr) (v : Byte) : (s.programByte i v).pinQueue = s.pinQueue := rfl
@[simp] theorem State.programByte_freeIndex (i : RomAddr) (v : Byte) : (s.programByte i v).freeIndex = s.freeIndex := rfl
@[simp] theorem State.programByte_ramEpoch (i : RomAddr) (v : Byte) : (s.programByte i v).ramEpoch = s.ramEpoch := rfl

/-! ### setB -/

@[simp] theorem State.setB_cfg (v : BitVec 7) : (s.setB v).cfg = s.cfg := rfl
@[simp] theorem State.setB_rom (v : BitVec 7) : (s.setB v).rom = s.rom := rfl
@[simp] theorem State.setB_ram (v : BitVec 7) : (s.setB v).ram = s.ram := rfl
@[simp] theorem State.setB_a (v : BitVec 7) : (s.setB v).a = s.a := rfl
@[simp] theorem State.setB_b (v : BitVec 7) : (s.setB v).b = s.fitB v := rfl
@[simp] theorem State.setB_c (v : BitVec 7) : (s.setB v).c = s.c := rfl
@[simp] theorem State.setB_d (v : BitVec 7) : (s.setB v).d = s.d := rfl
@[simp] theorem State.setB_en (v : BitVec 7) : (s.setB v).en = s.en := rfl
@[simp] theorem State.setB_g (v : BitVec 7) : (s.setB v).g = s.g := rfl
@[simp] theorem State.setB_il3 (v : BitVec 7) : (s.setB v).il3 = s.il3 := rfl
@[simp] theorem State.setB_il0 (v : BitVec 7) : (s.setB v).il0 = s.il0 := rfl
@[simp] theorem State.setB_q (v : BitVec 7) : (s.setB v).q = s.q := rfl
@[simp] theorem State.setB_sio (v : BitVec 7) : (s.setB v).sio = s.sio := rfl
@[simp] theorem State.setB_skl (v : BitVec 7) : (s.setB v).skl = s.skl := rfl
@[simp] theorem State.setB_t (v : BitVec 7) : (s.setB v).t = s.t := rfl
@[simp] theorem State.setB_tp (v : BitVec 7) : (s.setB v).tp = s.tp := rfl
@[simp] theorem State.setB_tov (v : BitVec 7) : (s.setB v).tov = s.tov := rfl
@[simp] theorem State.setB_pc (v : BitVec 7) : (s.setB v).pc = s.pc := rfl
@[simp] theorem State.setB_sa (v : BitVec 7) : (s.setB v).sa = s.sa := rfl
@[simp] theorem State.setB_sb (v : BitVec 7) : (s.setB v).sb = s.sb := rfl
@[simp] theorem State.setB_sc (v : BitVec 7) : (s.setB v).sc = s.sc := rfl
@[simp] theorem State.setB_skip (v : BitVec 7) : (s.setB v).skip = s.skip := rfl
@[simp] theorem State.setB_lbiChain (v : BitVec 7) : (s.setB v).lbiChain = s.lbiChain := rfl
@[simp] theorem State.setB_sskip (v : BitVec 7) : (s.setB v).sskip = s.sskip := rfl
@[simp] theorem State.setB_intReq (v : BitVec 7) : (s.setB v).intReq = s.intReq := rfl
@[simp] theorem State.setB_halted (v : BitVec 7) : (s.setB v).halted = s.halted := rfl
@[simp] theorem State.setB_clockStopped (v : BitVec 7) : (s.setB v).clockStopped = s.clockStopped := rfl
@[simp] theorem State.setB_idle (v : BitVec 7) : (s.setB v).idle = s.idle := rfl
@[simp] theorem State.setB_events (v : BitVec 7) : (s.setB v).events = s.events := rfl
@[simp] theorem State.setB_pinQueue (v : BitVec 7) : (s.setB v).pinQueue = s.pinQueue := rfl
@[simp] theorem State.setB_freeIndex (v : BitVec 7) : (s.setB v).freeIndex = s.freeIndex := rfl
@[simp] theorem State.setB_ramEpoch (v : BitVec 7) : (s.setB v).ramEpoch = s.ramEpoch := rfl

/-! ### setBrBd -/

@[simp] theorem State.setBrBd_cfg (r : BitVec 3) (d : Digit) : (s.setBrBd r d).cfg = s.cfg := rfl
@[simp] theorem State.setBrBd_rom (r : BitVec 3) (d : Digit) : (s.setBrBd r d).rom = s.rom := rfl
@[simp] theorem State.setBrBd_ram (r : BitVec 3) (d : Digit) : (s.setBrBd r d).ram = s.ram := rfl
@[simp] theorem State.setBrBd_a (r : BitVec 3) (d : Digit) : (s.setBrBd r d).a = s.a := rfl
@[simp] theorem State.setBrBd_b (r : BitVec 3) (d : Digit) : (s.setBrBd r d).b = s.fitB (r ++ d) := rfl
@[simp] theorem State.setBrBd_c (r : BitVec 3) (d : Digit) : (s.setBrBd r d).c = s.c := rfl
@[simp] theorem State.setBrBd_d (r : BitVec 3) (d : Digit) : (s.setBrBd r d).d = s.d := rfl
@[simp] theorem State.setBrBd_en (r : BitVec 3) (d : Digit) : (s.setBrBd r d).en = s.en := rfl
@[simp] theorem State.setBrBd_g (r : BitVec 3) (d : Digit) : (s.setBrBd r d).g = s.g := rfl
@[simp] theorem State.setBrBd_il3 (r : BitVec 3) (d : Digit) : (s.setBrBd r d).il3 = s.il3 := rfl
@[simp] theorem State.setBrBd_il0 (r : BitVec 3) (d : Digit) : (s.setBrBd r d).il0 = s.il0 := rfl
@[simp] theorem State.setBrBd_q (r : BitVec 3) (d : Digit) : (s.setBrBd r d).q = s.q := rfl
@[simp] theorem State.setBrBd_sio (r : BitVec 3) (d : Digit) : (s.setBrBd r d).sio = s.sio := rfl
@[simp] theorem State.setBrBd_skl (r : BitVec 3) (d : Digit) : (s.setBrBd r d).skl = s.skl := rfl
@[simp] theorem State.setBrBd_t (r : BitVec 3) (d : Digit) : (s.setBrBd r d).t = s.t := rfl
@[simp] theorem State.setBrBd_tp (r : BitVec 3) (d : Digit) : (s.setBrBd r d).tp = s.tp := rfl
@[simp] theorem State.setBrBd_tov (r : BitVec 3) (d : Digit) : (s.setBrBd r d).tov = s.tov := rfl
@[simp] theorem State.setBrBd_pc (r : BitVec 3) (d : Digit) : (s.setBrBd r d).pc = s.pc := rfl
@[simp] theorem State.setBrBd_sa (r : BitVec 3) (d : Digit) : (s.setBrBd r d).sa = s.sa := rfl
@[simp] theorem State.setBrBd_sb (r : BitVec 3) (d : Digit) : (s.setBrBd r d).sb = s.sb := rfl
@[simp] theorem State.setBrBd_sc (r : BitVec 3) (d : Digit) : (s.setBrBd r d).sc = s.sc := rfl
@[simp] theorem State.setBrBd_skip (r : BitVec 3) (d : Digit) : (s.setBrBd r d).skip = s.skip := rfl
@[simp] theorem State.setBrBd_lbiChain (r : BitVec 3) (d : Digit) : (s.setBrBd r d).lbiChain = s.lbiChain := rfl
@[simp] theorem State.setBrBd_sskip (r : BitVec 3) (d : Digit) : (s.setBrBd r d).sskip = s.sskip := rfl
@[simp] theorem State.setBrBd_intReq (r : BitVec 3) (d : Digit) : (s.setBrBd r d).intReq = s.intReq := rfl
@[simp] theorem State.setBrBd_halted (r : BitVec 3) (d : Digit) : (s.setBrBd r d).halted = s.halted := rfl
@[simp] theorem State.setBrBd_clockStopped (r : BitVec 3) (d : Digit) : (s.setBrBd r d).clockStopped = s.clockStopped := rfl
@[simp] theorem State.setBrBd_idle (r : BitVec 3) (d : Digit) : (s.setBrBd r d).idle = s.idle := rfl
@[simp] theorem State.setBrBd_events (r : BitVec 3) (d : Digit) : (s.setBrBd r d).events = s.events := rfl
@[simp] theorem State.setBrBd_pinQueue (r : BitVec 3) (d : Digit) : (s.setBrBd r d).pinQueue = s.pinQueue := rfl
@[simp] theorem State.setBrBd_freeIndex (r : BitVec 3) (d : Digit) : (s.setBrBd r d).freeIndex = s.freeIndex := rfl
@[simp] theorem State.setBrBd_ramEpoch (r : BitVec 3) (d : Digit) : (s.setBrBd r d).ramEpoch = s.ramEpoch := rfl

/-! ### setMA -/

@[simp] theorem State.setMA_cfg (v : Byte) : (s.setMA v).cfg = s.cfg := rfl
@[simp] theorem State.setMA_rom (v : Byte) : (s.setMA v).rom = s.rom := rfl
@[simp] theorem State.setMA_ram (v : Byte) : (s.setMA v).ram = Memory.store s.ram s.ramAddr (hiDigit v) := rfl
@[simp] theorem State.setMA_a (v : Byte) : (s.setMA v).a = loDigit v := rfl
@[simp] theorem State.setMA_b (v : Byte) : (s.setMA v).b = s.b := rfl
@[simp] theorem State.setMA_c (v : Byte) : (s.setMA v).c = s.c := rfl
@[simp] theorem State.setMA_d (v : Byte) : (s.setMA v).d = s.d := rfl
@[simp] theorem State.setMA_en (v : Byte) : (s.setMA v).en = s.en := rfl
@[simp] theorem State.setMA_g (v : Byte) : (s.setMA v).g = s.g := rfl
@[simp] theorem State.setMA_il3 (v : Byte) : (s.setMA v).il3 = s.il3 := rfl
@[simp] theorem State.setMA_il0 (v : Byte) : (s.setMA v).il0 = s.il0 := rfl
@[simp] theorem State.setMA_q (v : Byte) : (s.setMA v).q = s.q := rfl
@[simp] theorem State.setMA_sio (v : Byte) : (s.setMA v).sio = s.sio := rfl
@[simp] theorem State.setMA_skl (v : Byte) : (s.setMA v).skl = s.skl := rfl
@[simp] theorem State.setMA_t (v : Byte) : (s.setMA v).t = s.t := rfl
@[simp] theorem State.setMA_tp (v : Byte) : (s.setMA v).tp = s.tp := rfl
@[simp] theorem State.setMA_tov (v : Byte) : (s.setMA v).tov = s.tov := rfl
@[simp] theorem State.setMA_pc (v : Byte) : (s.setMA v).pc = s.pc := rfl
@[simp] theorem State.setMA_sa (v : Byte) : (s.setMA v).sa = s.sa := rfl
@[simp] theorem State.setMA_sb (v : Byte) : (s.setMA v).sb = s.sb := rfl
@[simp] theorem State.setMA_sc (v : Byte) : (s.setMA v).sc = s.sc := rfl
@[simp] theorem State.setMA_skip (v : Byte) : (s.setMA v).skip = s.skip := rfl
@[simp] theorem State.setMA_lbiChain (v : Byte) : (s.setMA v).lbiChain = s.lbiChain := rfl
@[simp] theorem State.setMA_sskip (v : Byte) : (s.setMA v).sskip = s.sskip := rfl
@[simp] theorem State.setMA_intReq (v : Byte) : (s.setMA v).intReq = s.intReq := rfl
@[simp] theorem State.setMA_halted (v : Byte) : (s.setMA v).halted = s.halted := rfl
@[simp] theorem State.setMA_clockStopped (v : Byte) : (s.setMA v).clockStopped = s.clockStopped := rfl
@[simp] theorem State.setMA_idle (v : Byte) : (s.setMA v).idle = s.idle := rfl
@[simp] theorem State.setMA_events (v : Byte) : (s.setMA v).events = s.events := rfl
@[simp] theorem State.setMA_pinQueue (v : Byte) : (s.setMA v).pinQueue = s.pinQueue := rfl
@[simp] theorem State.setMA_freeIndex (v : Byte) : (s.setMA v).freeIndex = s.freeIndex := rfl
@[simp] theorem State.setMA_ramEpoch (v : Byte) : (s.setMA v).ramEpoch = s.ramEpoch := rfl

/-! ### push -/

@[simp] theorem State.push_cfg (v : RomAddr) : (s.push v).cfg = s.cfg := rfl
@[simp] theorem State.push_rom (v : RomAddr) : (s.push v).rom = s.rom := rfl
@[simp] theorem State.push_ram (v : RomAddr) : (s.push v).ram = s.ram := rfl
@[simp] theorem State.push_a (v : RomAddr) : (s.push v).a = s.a := rfl
@[simp] theorem State.push_b (v : RomAddr) : (s.push v).b = s.b := rfl
@[simp] theorem State.push_c (v : RomAddr) : (s.push v).c = s.c := rfl
@[simp] theorem State.push_d (v : RomAddr) : (s.push v).d = s.d := rfl
@[simp] theorem State.push_en (v : RomAddr) : (s.push v).en = s.en := rfl
@[simp] theorem State.push_g (v : RomAddr) : (s.push v).g = s.g := rfl
@[simp] theorem State.push_il3 (v : RomAddr) : (s.push v).il3 = s.il3 := rfl
@[simp] theorem State.push_il0 (v : RomAddr) : (s.push v).il0 = s.il0 := rfl
@[simp] theorem State.push_q (v : RomAddr) : (s.push v).q = s.q := rfl
@[simp] theorem State.push_sio (v : RomAddr) : (s.push v).sio = s.sio := rfl
@[simp] theorem State.push_skl (v : RomAddr) : (s.push v).skl = s.skl := rfl
@[simp] theorem State.push_t (v : RomAddr) : (s.push v).t = s.t := rfl
@[simp] theorem State.push_tp (v : RomAddr) : (s.push v).tp = s.tp := rfl
@[simp] theorem State.push_tov (v : RomAddr) : (s.push v).tov = s.tov := rfl
@[simp] theorem State.push_pc (v : RomAddr) : (s.push v).pc = s.pc := rfl
@[simp] theorem State.push_sa (v : RomAddr) : (s.push v).sa = v := rfl
@[simp] theorem State.push_sb (v : RomAddr) : (s.push v).sb = s.sa := rfl
@[simp] theorem State.push_sc (v : RomAddr) : (s.push v).sc = s.sb := rfl
@[simp] theorem State.push_skip (v : RomAddr) : (s.push v).skip = s.skip := rfl
@[simp] theorem State.push_lbiChain (v : RomAddr) : (s.push v).lbiChain = s.lbiChain := rfl
@[simp] theorem State.push_sskip (v : RomAddr) : (s.push v).sskip = s.sskip := rfl
@[simp] theorem State.push_intReq (v : RomAddr) : (s.push v).intReq = s.intReq := rfl
@[simp] theorem State.push_halted (v : RomAddr) : (s.push v).halted = s.halted := rfl
@[simp] theorem State.push_clockStopped (v : RomAddr) : (s.push v).clockStopped = s.clockStopped := rfl
@[simp] theorem State.push_idle (v : RomAddr) : (s.push v).idle = s.idle := rfl
@[simp] theorem State.push_events (v : RomAddr) : (s.push v).events = s.events := rfl
@[simp] theorem State.push_pinQueue (v : RomAddr) : (s.push v).pinQueue = s.pinQueue := rfl
@[simp] theorem State.push_freeIndex (v : RomAddr) : (s.push v).freeIndex = s.freeIndex := rfl
@[simp] theorem State.push_ramEpoch (v : RomAddr) : (s.push v).ramEpoch = s.ramEpoch := rfl

/-! ### popAddress -/

@[simp] theorem State.popAddress_cfg : (s.popAddress).cfg = s.cfg := rfl
@[simp] theorem State.popAddress_rom : (s.popAddress).rom = s.rom := rfl
@[simp] theorem State.popAddress_ram : (s.popAddress).ram = s.ram := rfl
@[simp] theorem State.popAddress_a : (s.popAddress).a = s.a := rfl
@[simp] theorem State.popAddress_b : (s.popAddress).b = s.b := rfl
@[simp] theorem State.popAddress_c : (s.popAddress).c = s.c := rfl
@[simp] theorem State.popAddress_d : (s.popAddress).d = s.d := rfl
@[simp] theorem State.popAddress_en : (s.popAddress).en = s.en := rfl
@[simp] theorem State.popAddress_g : (s.popAddress).g = s.g := rfl
@[simp] theorem State.popAddress_il3 : (s.popAddress).il3 = s.il3 := rfl
@[simp] theorem State.popAddress_il0 : (s.popAddress).il0 = s.il0 := rfl
@[simp] theorem State.popAddress_q : (s.popAddress).q = s.q := rfl
@[simp] theorem State.popAddress_sio : (s.popAddress).sio = s.sio := rfl
@[simp] theorem State.popAddress_skl : (s.popAddress).skl = s.skl := rfl
@[simp] theorem State.popAddress_t : (s.popAddress).t = s.t := rfl
@[simp] theorem State.popAddress_tp : (s.popAddress).tp = s.tp := rfl
@[simp] theorem State.popAddress_tov : (s.popAddress).tov = s.tov := rfl
@[simp] theorem State.popAddress_pc : (s.popAddress).pc = s.sa := rfl
@[simp] theorem State.popAddress_sa : (s.popAddress).sa = s.sb := rfl
@[simp] theorem State.popAddress_sb : (s.popAddress).sb = s.sc := rfl
@[simp] theorem State.popAddress_sc : (s.popAddress).sc = s.sc := rfl
@[simp] theorem State.popAddress_skip : (s.popAddress).skip = s.skip := rfl
@[simp] theorem State.popAddress_lbiChain : (s.popAddress).lbiChain = s.lbiChain := rfl
@[simp] theorem State.popAddress_sskip : (s.popAddress).sskip = s.sskip := rfl
@[simp] theorem State.popAddress_intReq : (s.popAddress).intReq = s.intReq := rfl
@[simp] theorem State.popAddress_halted : (s.popAddress).halted = s.halted := rfl
@[simp] theorem State.popAddress_clockStopped : (s.popAddress).clockStopped = s.clockStopped := rfl
@[simp] theorem State.popAddress_idle : (s.popAddress).idle = s.idle := rfl
@[simp] theorem State.popAddress_events : (s.popAddress).events = s.events := rfl
@[simp] theorem State.popAddress_pinQueue : (s.popAddress).pinQueue = s.pinQueue := rfl
@[simp] theorem State.popAddress_freeIndex : (s.popAddress).freeIndex = s.freeIndex := rfl
@[simp] theorem State.popAddress_ramEpoch : (s.popAddress).ramEpoch = s.ramEpoch := rfl

/-! ### restoreSkipIf -/

@[simp] theorem State.restoreSkipIf_cfg (p : Bool) : (s.restoreSkipIf p).cfg = s.cfg := rfl
@[simp] theorem State.restoreSkipIf_rom (p : Bool) : (s.restoreSkipIf p).rom = s.rom := rfl
@[simp] theorem State.restoreSkipIf_ram (p : Bool) : (s.restoreSkipIf p).ram = s.ram := rfl
@[simp] theorem State.restoreSkipIf_a (p : Bool) : (s.restoreSkipIf p).a = s.a := rfl
@[simp] theorem State.restoreSkipIf_b (p : Bool) : (s.restoreSkipIf p).b = s.b := rfl
@[simp] theorem State.restoreSkipIf_c (p : Bool) : (s.restoreSkipIf p).c = s.c := rfl
@[simp] theorem State.restoreSkipIf_d (p : Bool) : (s.restoreSkipIf p).d = s.d := rfl
@[simp] theorem State.restoreSkipIf_en (p : Bool) : (s.restoreSkipIf p).en = s.en := rfl
@[simp] theorem State.restoreSkipIf_g (p : Bool) : (s.restoreSkipIf p).g = s.g := rfl
@[simp] theorem State.restoreSkipIf_il3 (p : Bool) : (s.restoreSkipIf p).il3 = s.il3 := rfl
@[simp] theorem State.restoreSkipIf_il0 (p : Bool) : (s.restoreSkipIf p).il0 = s.il0 := rfl
@[simp] theorem State.restoreSkipIf_q (p : Bool) : (s.restoreSkipIf p).q = s.q := rfl
@[simp] theorem State.restoreSkipIf_sio (p : Bool) : (s.restoreSkipIf p).sio = s.sio := rfl
@[simp] theorem State.restoreSkipIf_skl (p : Bool) : (s.restoreSkipIf p).skl = s.skl := rfl
@[simp] theorem State.restoreSkipIf_t (p : Bool) : (s.restoreSkipIf p).t = s.t := rfl
@[simp] theorem State.restoreSkipIf_tp (p : Bool) : (s.restoreSkipIf p).tp = s.tp := rfl
@[simp] theorem State.restoreSkipIf_tov (p : Bool) : (s.restoreSkipIf p).tov = s.tov := rfl
@[simp] theorem State.restoreSkipIf_pc (p : Bool) : (s.restoreSkipIf p).pc = s.pc := rfl
@[simp] theorem State.restoreSkipIf_sa (p : Bool) : (s.restoreSkipIf p).sa = s.sa := rfl
@[simp] theorem State.restoreSkipIf_sb (p : Bool) : (s.restoreSkipIf p).sb = s.sb := rfl
@[simp] theorem State.restoreSkipIf_sc (p : Bool) : (s.restoreSkipIf p).sc = s.sc := rfl
@[simp] theorem State.restoreSkipIf_skip (p : Bool) : (s.restoreSkipIf p).skip = if p then s.sskip else s.skip := rfl
@[simp] theorem State.restoreSkipIf_lbiChain (p : Bool) : (s.restoreSkipIf p).lbiChain = s.lbiChain := rfl
@[simp] theorem State.restoreSkipIf_sskip (p : Bool) : (s.restoreSkipIf p).sskip = (s.sskip && !p) := rfl
@[simp] theorem State.restoreSkipIf_intReq (p : Bool) : (s.restoreSkipIf p).intReq = s.intReq := rfl
@[simp] theorem State.restoreSkipIf_halted (p : Bool) : (s.restoreSkipIf p).halted = s.halted := rfl
@[simp] theorem State.restoreSkipIf_clockStopped (p : Bool) : (s.restoreSkipIf p).clockStopped = s.clockStopped := rfl
@[simp] theorem State.restoreSkipIf_idle (p : Bool) : (s.restoreSkipIf p).idle = s.idle := rfl
@[simp] theorem State.restoreSkipIf_events (p : Bool) : (s.restoreSkipIf p).events = s.events := rfl
@[simp] theorem State.restoreSkipIf_pinQueue (p : Bool) : (s.restoreSkipIf p).pinQueue = s.pinQueue := rfl
@[simp] theorem State.restoreSkipIf_freeIndex (p : Bool) : (s.restoreSkipIf p).freeIndex = s.freeIndex := rfl
@[simp] theorem State.restoreSkipIf_ramEpoch (p : Bool) : (s.restoreSkipIf p).ramEpoch = s.ramEpoch := rfl

/-! ### skipIf -/

@[simp] theorem State.skipIf_cfg (p : Bool) : (s.skipIf p).cfg = s.cfg := rfl
@[simp] theorem State.skipIf_rom (p : Bool) : (s.skipIf p).rom = s.rom := rfl
@[simp] theorem State.skipIf_ram (p : Bool) : (s.skipIf p).ram = s.ram := rfl
@[simp] theorem State.skipIf_a (p : Bool) : (s.skipIf p).a = s.a := rfl
@[simp] theorem State.skipIf_b (p : Bool) : (s.skipIf p).b = s.b := rfl
@[simp] theorem State.skipIf_c (p : Bool) : (s.skipIf p).c = s.c := rfl
@[simp] theorem State.skipIf_d (p : Bool) : (s.skipIf p).d = s.d := rfl
@[simp] theorem State.skipIf_en (p : Bool) : (s.skipIf p).en = s.en := rfl
@[simp] theorem State.skipIf_g (p : Bool) : (s.skipIf p).g = s.g := rfl
@[simp] theorem State.skipIf_il3 (p : Bool) : (s.skipIf p).il3 = s.il3 := rfl
@[simp] theorem State.skipIf_il0 (p : Bool) : (s.skipIf p).il0 = s.il0 := rfl
@[simp] theorem State.skipIf_q (p : Bool) : (s.skipIf p).q = s.q := rfl
@[simp] theorem State.skipIf_sio (p : Bool) : (s.skipIf p).sio = s.sio := rfl
@[simp] theorem State.skipIf_skl (p : Bool) : (s.skipIf p).skl = s.skl := rfl
@[simp] theorem State.skipIf_t (p : Bool) : (s.skipIf p).t = s.t := rfl
@[simp] theorem State.skipIf_tp (p : Bool) : (s.skipIf p).tp = s.tp := rfl
@[simp] theorem State.skipIf_tov (p : Bool) : (s.skipIf p).tov = s.tov := rfl
@[simp] theorem State.skipIf_pc (p : Bool) : (s.skipIf p).pc = s.pc := rfl
@[simp] theorem State.skipIf_sa (p : Bool) : (s.skipIf p).sa = s.sa := rfl
@[simp] theorem State.skipIf_sb (p : Bool) : (s.skipIf p).sb = s.sb := rfl
@[simp] theorem State.skipIf_sc (p : Bool) : (s.skipIf p).sc = s.sc := rfl
@[simp] theorem State.skipIf_skip (p : Bool) : (s.skipIf p).skip = (s.skip || p) := rfl
@[simp] theorem State.skipIf_lbiChain (p : Bool) : (s.skipIf p).lbiChain = s.lbiChain := rfl
@[simp] theorem State.skipIf_sskip (p : Bool) : (s.skipIf p).sskip = s.sskip := rfl
@[simp] theorem State.skipIf_intReq (p : Bool) : (s.skipIf p).intReq = s.intReq := rfl
@[simp] theorem State.skipIf_halted (p : Bool) : (s.skipIf p).halted = s.halted := rfl
@[simp] theorem State.skipIf_clockStopped (p : Bool) : (s.skipIf p).clockStopped = s.clockStopped := rfl
@[simp] theorem State.skipIf_idle (p : Bool) : (s.skipIf p).idle = s.idle := rfl
@[simp] theorem State.skipIf_events (p : Bool) : (s.skipIf p).events = s.events := rfl
@[simp] theorem State.skipIf_pinQueue (p : Bool) : (s.skipIf p).pinQueue = s.pinQueue := rfl
@[simp] theorem State.skipIf_freeIndex (p : Bool) : (s.skipIf p).freeIndex = s.freeIndex := rfl
@[simp] theorem State.skipIf_ramEpoch (p : Bool) : (s.skipIf p).ramEpoch = s.ramEpoch := rfl

/-! ### takeSample -/

@[simp] theorem State.takeSample_cfg : (s.takeSample).cfg = s.cfg := rfl
@[simp] theorem State.takeSample_rom : (s.takeSample).rom = s.rom := rfl
@[simp] theorem State.takeSample_ram : (s.takeSample).ram = s.ram := rfl
@[simp] theorem State.takeSample_a : (s.takeSample).a = s.a := rfl
@[simp] theorem State.takeSample_b : (s.takeSample).b = s.b := rfl
@[simp] theorem State.takeSample_c : (s.takeSample).c = s.c := rfl
@[simp] theorem State.takeSample_d : (s.takeSample).d = s.d := rfl
@[simp] theorem State.takeSample_en : (s.takeSample).en = s.en := rfl
@[simp] theorem State.takeSample_g : (s.takeSample).g = s.g := rfl
@[simp] theorem State.takeSample_il3 : (s.takeSample).il3 = s.il3 := rfl
@[simp] theorem State.takeSample_il0 : (s.takeSample).il0 = s.il0 := rfl
@[simp] theorem State.takeSample_q : (s.takeSample).q = s.q := rfl
@[simp] theorem State.takeSample_sio : (s.takeSample).sio = s.sio := rfl
@[simp] theorem State.takeSample_skl : (s.takeSample).skl = s.skl := rfl
@[simp] theorem State.takeSample_t : (s.takeSample).t = s.t := rfl
@[simp] theorem State.takeSample_tp : (s.takeSample).tp = s.tp := rfl
@[simp] theorem State.takeSample_tov : (s.takeSample).tov = s.tov := rfl
@[simp] theorem State.takeSample_pc : (s.takeSample).pc = s.pc := rfl
@[simp] theorem State.takeSample_sa : (s.takeSample).sa = s.sa := rfl
@[simp] theorem State.takeSample_sb : (s.takeSample).sb = s.sb := rfl
@[simp] theorem State.takeSample_sc : (s.takeSample).sc = s.sc := rfl
@[simp] theorem State.takeSample_skip : (s.takeSample).skip = s.skip := rfl
@[simp] theorem State.takeSample_lbiChain : (s.takeSample).lbiChain = s.lbiChain := rfl
@[simp] theorem State.takeSample_sskip : (s.takeSample).sskip = s.sskip := rfl
@[simp] theorem State.takeSample_intReq : (s.takeSample).intReq = s.intReq := rfl
@[simp] theorem State.takeSample_halted : (s.takeSample).halted = s.halted := rfl
@[simp] theorem State.takeSample_clockStopped : (s.takeSample).clockStopped = s.clockStopped := rfl
@[simp] theorem State.takeSample_idle : (s.takeSample).idle = s.idle := rfl
@[simp] theorem State.takeSample_events : (s.takeSample).events = s.events := rfl
@[simp] theorem State.takeSample_pinQueue : (s.takeSample).pinQueue = s.pinQueue.tail := rfl
@[simp] theorem State.takeSample_freeIndex : (s.takeSample).freeIndex = s.freeIndex + 1 := rfl
@[simp] theorem State.takeSample_ramEpoch : (s.takeSample).ramEpoch = s.ramEpoch := rfl

/-! ### takeFree -/

@[simp] theorem State.takeFree_cfg : (s.takeFree).cfg = s.cfg := rfl
@[simp] theorem State.takeFree_rom : (s.takeFree).rom = s.rom := rfl
@[simp] theorem State.takeFree_ram : (s.takeFree).ram = s.ram := rfl
@[simp] theorem State.takeFree_a : (s.takeFree).a = s.a := rfl
@[simp] theorem State.takeFree_b : (s.takeFree).b = s.b := rfl
@[simp] theorem State.takeFree_c : (s.takeFree).c = s.c := rfl
@[simp] theorem State.takeFree_d : (s.takeFree).d = s.d := rfl
@[simp] theorem State.takeFree_en : (s.takeFree).en = s.en := rfl
@[simp] theorem State.takeFree_g : (s.takeFree).g = s.g := rfl
@[simp] theorem State.takeFree_il3 : (s.takeFree).il3 = s.il3 := rfl
@[simp] theorem State.takeFree_il0 : (s.takeFree).il0 = s.il0 := rfl
@[simp] theorem State.takeFree_q : (s.takeFree).q = s.q := rfl
@[simp] theorem State.takeFree_sio : (s.takeFree).sio = s.sio := rfl
@[simp] theorem State.takeFree_skl : (s.takeFree).skl = s.skl := rfl
@[simp] theorem State.takeFree_t : (s.takeFree).t = s.t := rfl
@[simp] theorem State.takeFree_tp : (s.takeFree).tp = s.tp := rfl
@[simp] theorem State.takeFree_tov : (s.takeFree).tov = s.tov := rfl
@[simp] theorem State.takeFree_pc : (s.takeFree).pc = s.pc := rfl
@[simp] theorem State.takeFree_sa : (s.takeFree).sa = s.sa := rfl
@[simp] theorem State.takeFree_sb : (s.takeFree).sb = s.sb := rfl
@[simp] theorem State.takeFree_sc : (s.takeFree).sc = s.sc := rfl
@[simp] theorem State.takeFree_skip : (s.takeFree).skip = s.skip := rfl
@[simp] theorem State.takeFree_lbiChain : (s.takeFree).lbiChain = s.lbiChain := rfl
@[simp] theorem State.takeFree_sskip : (s.takeFree).sskip = s.sskip := rfl
@[simp] theorem State.takeFree_intReq : (s.takeFree).intReq = s.intReq := rfl
@[simp] theorem State.takeFree_halted : (s.takeFree).halted = s.halted := rfl
@[simp] theorem State.takeFree_clockStopped : (s.takeFree).clockStopped = s.clockStopped := rfl
@[simp] theorem State.takeFree_idle : (s.takeFree).idle = s.idle := rfl
@[simp] theorem State.takeFree_events : (s.takeFree).events = s.events := rfl
@[simp] theorem State.takeFree_pinQueue : (s.takeFree).pinQueue = s.pinQueue := rfl
@[simp] theorem State.takeFree_freeIndex : (s.takeFree).freeIndex = s.freeIndex + 1 := rfl
@[simp] theorem State.takeFree_ramEpoch : (s.takeFree).ramEpoch = s.ramEpoch := rfl

/-! ### countIf -/

@[simp] theorem State.countIf_cfg (p : Bool) : (s.countIf p).cfg = s.cfg := rfl
@[simp] theorem State.countIf_rom (p : Bool) : (s.countIf p).rom = s.rom := rfl
@[simp] theorem State.countIf_ram (p : Bool) : (s.countIf p).ram = s.ram := rfl
@[simp] theorem State.countIf_a (p : Bool) : (s.countIf p).a = s.a := rfl
@[simp] theorem State.countIf_b (p : Bool) : (s.countIf p).b = s.b := rfl
@[simp] theorem State.countIf_c (p : Bool) : (s.countIf p).c = s.c := rfl
@[simp] theorem State.countIf_d (p : Bool) : (s.countIf p).d = s.d := rfl
@[simp] theorem State.countIf_en (p : Bool) : (s.countIf p).en = s.en := rfl
@[simp] theorem State.countIf_g (p : Bool) : (s.countIf p).g = s.g := rfl
@[simp] theorem State.countIf_il3 (p : Bool) : (s.countIf p).il3 = s.il3 := rfl
@[simp] theorem State.countIf_il0 (p : Bool) : (s.countIf p).il0 = s.il0 := rfl
@[simp] theorem State.countIf_q (p : Bool) : (s.countIf p).q = s.q := rfl
@[simp] theorem State.countIf_sio (p : Bool) : (s.countIf p).sio = s.sio := rfl
@[simp] theorem State.countIf_skl (p : Bool) : (s.countIf p).skl = s.skl := rfl
@[simp] theorem State.countIf_t (p : Bool) : (s.countIf p).t = if p then s.t + 1#8 else s.t := rfl
@[simp] theorem State.countIf_tp (p : Bool) : (s.countIf p).tp = s.tp := rfl
@[simp] theorem State.countIf_tov (p : Bool) : (s.countIf p).tov = (s.tov || (p && s.t == 0xFF#8)) := rfl
@[simp] theorem State.countIf_pc (p : Bool) : (s.countIf p).pc = s.pc := rfl
@[simp] theorem State.countIf_sa (p : Bool) : (s.countIf p).sa = s.sa := rfl
@[simp] theorem State.countIf_sb (p : Bool) : (s.countIf p).sb = s.sb := rfl
@[simp] theorem State.countIf_sc (p : Bool) : (s.countIf p).sc = s.sc := rfl
@[simp] theorem State.countIf_skip (p : Bool) : (s.countIf p).skip = s.skip := rfl
@[simp] theorem State.countIf_lbiChain (p : Bool) : (s.countIf p).lbiChain = s.lbiChain := rfl
@[simp] theorem State.countIf_sskip (p : Bool) : (s.countIf p).sskip = s.sskip := rfl
@[simp] theorem State.countIf_intReq (p : Bool) : (s.countIf p).intReq = s.intReq := rfl
@[simp] theorem State.countIf_halted (p : Bool) : (s.countIf p).halted = s.halted := rfl
@[simp] theorem State.countIf_clockStopped (p : Bool) : (s.countIf p).clockStopped = s.clockStopped := rfl
@[simp] theorem State.countIf_idle (p : Bool) : (s.countIf p).idle = s.idle := rfl
@[simp] theorem State.countIf_events (p : Bool) : (s.countIf p).events = s.events := rfl
@[simp] theorem State.countIf_pinQueue (p : Bool) : (s.countIf p).pinQueue = s.pinQueue := rfl
@[simp] theorem State.countIf_freeIndex (p : Bool) : (s.countIf p).freeIndex = s.freeIndex := rfl
@[simp] theorem State.countIf_ramEpoch (p : Bool) : (s.countIf p).ramEpoch = s.ramEpoch := rfl

/-! ### enterInterrupt -/

@[simp] theorem State.enterInterrupt_cfg : (s.enterInterrupt).cfg = s.cfg := rfl
@[simp] theorem State.enterInterrupt_rom : (s.enterInterrupt).rom = s.rom := rfl
@[simp] theorem State.enterInterrupt_ram : (s.enterInterrupt).ram = s.ram := rfl
@[simp] theorem State.enterInterrupt_a : (s.enterInterrupt).a = s.a := rfl
@[simp] theorem State.enterInterrupt_b : (s.enterInterrupt).b = s.b := rfl
@[simp] theorem State.enterInterrupt_c : (s.enterInterrupt).c = s.c := rfl
@[simp] theorem State.enterInterrupt_d : (s.enterInterrupt).d = s.d := rfl
@[simp] theorem State.enterInterrupt_en : (s.enterInterrupt).en = s.en &&& 0b1101#4 := rfl
@[simp] theorem State.enterInterrupt_g : (s.enterInterrupt).g = s.g := rfl
@[simp] theorem State.enterInterrupt_il3 : (s.enterInterrupt).il3 = s.il3 := rfl
@[simp] theorem State.enterInterrupt_il0 : (s.enterInterrupt).il0 = s.il0 := rfl
@[simp] theorem State.enterInterrupt_q : (s.enterInterrupt).q = s.q := rfl
@[simp] theorem State.enterInterrupt_sio : (s.enterInterrupt).sio = s.sio := rfl
@[simp] theorem State.enterInterrupt_skl : (s.enterInterrupt).skl = s.skl := rfl
@[simp] theorem State.enterInterrupt_t : (s.enterInterrupt).t = s.t := rfl
@[simp] theorem State.enterInterrupt_tp : (s.enterInterrupt).tp = s.tp := rfl
@[simp] theorem State.enterInterrupt_tov : (s.enterInterrupt).tov = s.tov := rfl
@[simp] theorem State.enterInterrupt_pc : (s.enterInterrupt).pc = 0x0FF#11 := rfl
@[simp] theorem State.enterInterrupt_sa : (s.enterInterrupt).sa = s.pc := rfl
@[simp] theorem State.enterInterrupt_sb : (s.enterInterrupt).sb = s.sa := rfl
@[simp] theorem State.enterInterrupt_sc : (s.enterInterrupt).sc = s.sb := rfl
@[simp] theorem State.enterInterrupt_skip : (s.enterInterrupt).skip = false := rfl
@[simp] theorem State.enterInterrupt_lbiChain : (s.enterInterrupt).lbiChain = s.lbiChain := rfl
@[simp] theorem State.enterInterrupt_sskip : (s.enterInterrupt).sskip = s.skip := rfl
@[simp] theorem State.enterInterrupt_intReq : (s.enterInterrupt).intReq = false := rfl
@[simp] theorem State.enterInterrupt_halted : (s.enterInterrupt).halted = s.halted := rfl
@[simp] theorem State.enterInterrupt_clockStopped : (s.enterInterrupt).clockStopped = s.clockStopped := rfl
@[simp] theorem State.enterInterrupt_idle : (s.enterInterrupt).idle = s.idle := rfl
@[simp] theorem State.enterInterrupt_events : (s.enterInterrupt).events = s.events := rfl
@[simp] theorem State.enterInterrupt_pinQueue : (s.enterInterrupt).pinQueue = s.pinQueue := rfl
@[simp] theorem State.enterInterrupt_freeIndex : (s.enterInterrupt).freeIndex = s.freeIndex := rfl
@[simp] theorem State.enterInterrupt_ramEpoch : (s.enterInterrupt).ramEpoch = s.ramEpoch := rfl

/-! ### advance -/

@[simp] theorem State.advance_cfg (i : Instr) : (s.advance i).cfg = s.cfg := rfl
@[simp] theorem State.advance_rom (i : Instr) : (s.advance i).rom = s.rom := rfl
@[simp] theorem State.advance_ram (i : Instr) : (s.advance i).ram = s.ram := rfl
@[simp] theorem State.advance_a (i : Instr) : (s.advance i).a = s.a := rfl
@[simp] theorem State.advance_b (i : Instr) : (s.advance i).b = s.b := rfl
@[simp] theorem State.advance_c (i : Instr) : (s.advance i).c = s.c := rfl
@[simp] theorem State.advance_d (i : Instr) : (s.advance i).d = s.d := rfl
@[simp] theorem State.advance_en (i : Instr) : (s.advance i).en = s.en := rfl
@[simp] theorem State.advance_g (i : Instr) : (s.advance i).g = s.g := rfl
@[simp] theorem State.advance_il3 (i : Instr) : (s.advance i).il3 = s.il3 := rfl
@[simp] theorem State.advance_il0 (i : Instr) : (s.advance i).il0 = s.il0 := rfl
@[simp] theorem State.advance_q (i : Instr) : (s.advance i).q = s.q := rfl
@[simp] theorem State.advance_sio (i : Instr) : (s.advance i).sio = s.sio := rfl
@[simp] theorem State.advance_skl (i : Instr) : (s.advance i).skl = s.skl := rfl
@[simp] theorem State.advance_t (i : Instr) : (s.advance i).t = s.t := rfl
@[simp] theorem State.advance_tp (i : Instr) : (s.advance i).tp = s.tp := rfl
@[simp] theorem State.advance_tov (i : Instr) : (s.advance i).tov = s.tov := rfl
@[simp] theorem State.advance_pc (i : Instr) : (s.advance i).pc = s.pc + BitVec.ofNat 11 i.length := rfl
@[simp] theorem State.advance_sa (i : Instr) : (s.advance i).sa = s.sa := rfl
@[simp] theorem State.advance_sb (i : Instr) : (s.advance i).sb = s.sb := rfl
@[simp] theorem State.advance_sc (i : Instr) : (s.advance i).sc = s.sc := rfl
@[simp] theorem State.advance_skip (i : Instr) : (s.advance i).skip = s.skip := rfl
@[simp] theorem State.advance_lbiChain (i : Instr) : (s.advance i).lbiChain = s.lbiChain := rfl
@[simp] theorem State.advance_sskip (i : Instr) : (s.advance i).sskip = s.sskip := rfl
@[simp] theorem State.advance_intReq (i : Instr) : (s.advance i).intReq = s.intReq := rfl
@[simp] theorem State.advance_halted (i : Instr) : (s.advance i).halted = s.halted := rfl
@[simp] theorem State.advance_clockStopped (i : Instr) : (s.advance i).clockStopped = s.clockStopped := rfl
@[simp] theorem State.advance_idle (i : Instr) : (s.advance i).idle = s.idle := rfl
@[simp] theorem State.advance_events (i : Instr) : (s.advance i).events = s.events := rfl
@[simp] theorem State.advance_pinQueue (i : Instr) : (s.advance i).pinQueue = s.pinQueue := rfl
@[simp] theorem State.advance_freeIndex (i : Instr) : (s.advance i).freeIndex = s.freeIndex := rfl
@[simp] theorem State.advance_ramEpoch (i : Instr) : (s.advance i).ramEpoch = s.ramEpoch := rfl

/-! ### requestHalt: the fields it leaves alone -/

@[simp] theorem State.requestHalt_cfg : (s.requestHalt).cfg = s.cfg := by
  unfold State.requestHalt; split <;> rfl
@[simp] theorem State.requestHalt_rom : (s.requestHalt).rom = s.rom := by
  unfold State.requestHalt; split <;> rfl
@[simp] theorem State.requestHalt_ram : (s.requestHalt).ram = s.ram := by
  unfold State.requestHalt; split <;> rfl
@[simp] theorem State.requestHalt_a : (s.requestHalt).a = s.a := by
  unfold State.requestHalt; split <;> rfl
@[simp] theorem State.requestHalt_b : (s.requestHalt).b = s.b := by
  unfold State.requestHalt; split <;> rfl
@[simp] theorem State.requestHalt_c : (s.requestHalt).c = s.c := by
  unfold State.requestHalt; split <;> rfl
@[simp] theorem State.requestHalt_d : (s.requestHalt).d = s.d := by
  unfold State.requestHalt; split <;> rfl
@[simp] theorem State.requestHalt_en : (s.requestHalt).en = s.en := by
  unfold State.requestHalt; split <;> rfl
@[simp] theorem State.requestHalt_g : (s.requestHalt).g = s.g := by
  unfold State.requestHalt; split <;> rfl
@[simp] theorem State.requestHalt_il3 : (s.requestHalt).il3 = s.il3 := by
  unfold State.requestHalt; split <;> rfl
@[simp] theorem State.requestHalt_il0 : (s.requestHalt).il0 = s.il0 := by
  unfold State.requestHalt; split <;> rfl
@[simp] theorem State.requestHalt_q : (s.requestHalt).q = s.q := by
  unfold State.requestHalt; split <;> rfl
@[simp] theorem State.requestHalt_sio : (s.requestHalt).sio = s.sio := by
  unfold State.requestHalt; split <;> rfl
@[simp] theorem State.requestHalt_skl : (s.requestHalt).skl = s.skl := by
  unfold State.requestHalt; split <;> rfl
@[simp] theorem State.requestHalt_t : (s.requestHalt).t = s.t := by
  unfold State.requestHalt; split <;> rfl
@[simp] theorem State.requestHalt_tp : (s.requestHalt).tp = s.tp := by
  unfold State.requestHalt; split <;> rfl
@[simp] theorem State.requestHalt_tov : (s.requestHalt).tov = s.tov := by
  unfold State.requestHalt; split <;> rfl
@[simp] theorem State.requestHalt_pc : (s.requestHalt).pc = s.pc := by
  unfold State.requestHalt; split <;> rfl
@[simp] theorem State.requestHalt_sa : (s.requestHalt).sa = s.sa := by
  unfold State.requestHalt; split <;> rfl
@[simp] theorem State.requestHalt_sb : (s.requestHalt).sb = s.sb := by
  unfold State.requestHalt; split <;> rfl
@[simp] theorem State.requestHalt_sc : (s.requestHalt).sc = s.sc := by
  unfold State.requestHalt; split <;> rfl
@[simp] theorem State.requestHalt_skip : (s.requestHalt).skip = s.skip := by
  unfold State.requestHalt; split <;> rfl
@[simp] theorem State.requestHalt_lbiChain : (s.requestHalt).lbiChain = s.lbiChain := by
  unfold State.requestHalt; split <;> rfl
@[simp] theorem State.requestHalt_sskip : (s.requestHalt).sskip = s.sskip := by
  unfold State.requestHalt; split <;> rfl
@[simp] theorem State.requestHalt_intReq : (s.requestHalt).intReq = s.intReq := by
  unfold State.requestHalt; split <;> rfl
@[simp] theorem State.requestHalt_clockStopped : (s.requestHalt).clockStopped = s.clockStopped := by
  unfold State.requestHalt; split <;> rfl
@[simp] theorem State.requestHalt_idle : (s.requestHalt).idle = s.idle := by
  unfold State.requestHalt; split <;> rfl
@[simp] theorem State.requestHalt_events : (s.requestHalt).events = s.events := by
  unfold State.requestHalt; split <;> rfl
@[simp] theorem State.requestHalt_ramEpoch : (s.requestHalt).ramEpoch = s.ramEpoch := by
  unfold State.requestHalt; split <;> rfl

/-! ### takePulse: the fields it leaves alone -/

@[simp] theorem State.takePulse_cfg : (s.takePulse).cfg = s.cfg := by
  unfold State.takePulse; split <;> rfl
@[simp] theorem State.takePulse_rom : (s.takePulse).rom = s.rom := by
  unfold State.takePulse; split <;> rfl
@[simp] theorem State.takePulse_ram : (s.takePulse).ram = s.ram := by
  unfold State.takePulse; split <;> rfl
@[simp] theorem State.takePulse_a : (s.takePulse).a = s.a := by
  unfold State.takePulse; split <;> rfl
@[simp] theorem State.takePulse_b : (s.takePulse).b = s.b := by
  unfold State.takePulse; split <;> rfl
@[simp] theorem State.takePulse_c : (s.takePulse).c = s.c := by
  unfold State.takePulse; split <;> rfl
@[simp] theorem State.takePulse_d : (s.takePulse).d = s.d := by
  unfold State.takePulse; split <;> rfl
@[simp] theorem State.takePulse_en : (s.takePulse).en = s.en := by
  unfold State.takePulse; split <;> rfl
@[simp] theorem State.takePulse_g : (s.takePulse).g = s.g := by
  unfold State.takePulse; split <;> rfl
@[simp] theorem State.takePulse_il3 : (s.takePulse).il3 = s.il3 := by
  unfold State.takePulse; split <;> rfl
@[simp] theorem State.takePulse_il0 : (s.takePulse).il0 = s.il0 := by
  unfold State.takePulse; split <;> rfl
@[simp] theorem State.takePulse_q : (s.takePulse).q = s.q := by
  unfold State.takePulse; split <;> rfl
@[simp] theorem State.takePulse_sio : (s.takePulse).sio = s.sio := by
  unfold State.takePulse; split <;> rfl
@[simp] theorem State.takePulse_skl : (s.takePulse).skl = s.skl := by
  unfold State.takePulse; split <;> rfl
@[simp] theorem State.takePulse_t : (s.takePulse).t = s.t := by
  unfold State.takePulse; split <;> rfl
@[simp] theorem State.takePulse_tp : (s.takePulse).tp = s.tp := by
  unfold State.takePulse; split <;> rfl
@[simp] theorem State.takePulse_tov : (s.takePulse).tov = s.tov := by
  unfold State.takePulse; split <;> rfl
@[simp] theorem State.takePulse_pc : (s.takePulse).pc = s.pc := by
  unfold State.takePulse; split <;> rfl
@[simp] theorem State.takePulse_sa : (s.takePulse).sa = s.sa := by
  unfold State.takePulse; split <;> rfl
@[simp] theorem State.takePulse_sb : (s.takePulse).sb = s.sb := by
  unfold State.takePulse; split <;> rfl
@[simp] theorem State.takePulse_sc : (s.takePulse).sc = s.sc := by
  unfold State.takePulse; split <;> rfl
@[simp] theorem State.takePulse_skip : (s.takePulse).skip = s.skip := by
  unfold State.takePulse; split <;> rfl
@[simp] theorem State.takePulse_lbiChain : (s.takePulse).lbiChain = s.lbiChain := by
  unfold State.takePulse; split <;> rfl
@[simp] theorem State.takePulse_sskip : (s.takePulse).sskip = s.sskip := by
  unfold State.takePulse; split <;> rfl
@[simp] theorem State.takePulse_intReq : (s.takePulse).intReq = s.intReq := by
  unfold State.takePulse; split <;> rfl
@[simp] theorem State.takePulse_halted : (s.takePulse).halted = s.halted := by
  unfold State.takePulse; split <;> rfl
@[simp] theorem State.takePulse_clockStopped : (s.takePulse).clockStopped = s.clockStopped := by
  unfold State.takePulse; split <;> rfl
@[simp] theorem State.takePulse_idle : (s.takePulse).idle = s.idle := by
  unfold State.takePulse; split <;> rfl
@[simp] theorem State.takePulse_events : (s.takePulse).events = s.events := by
  unfold State.takePulse; split <;> rfl
@[simp] theorem State.takePulse_pinQueue : (s.takePulse).pinQueue = s.pinQueue := by
  unfold State.takePulse; split <;> rfl
@[simp] theorem State.takePulse_ramEpoch : (s.takePulse).ramEpoch = s.ramEpoch := by
  unfold State.takePulse; split <;> rfl

/-! ### takeInil: the fields it leaves alone -/

@[simp] theorem State.takeInil_cfg : (s.takeInil).cfg = s.cfg := by
  unfold State.takeInil; split <;> rfl
@[simp] theorem State.takeInil_rom : (s.takeInil).rom = s.rom := by
  unfold State.takeInil; split <;> rfl
@[simp] theorem State.takeInil_ram : (s.takeInil).ram = s.ram := by
  unfold State.takeInil; split <;> rfl
@[simp] theorem State.takeInil_a : (s.takeInil).a = s.a := by
  unfold State.takeInil; split <;> rfl
@[simp] theorem State.takeInil_b : (s.takeInil).b = s.b := by
  unfold State.takeInil; split <;> rfl
@[simp] theorem State.takeInil_c : (s.takeInil).c = s.c := by
  unfold State.takeInil; split <;> rfl
@[simp] theorem State.takeInil_d : (s.takeInil).d = s.d := by
  unfold State.takeInil; split <;> rfl
@[simp] theorem State.takeInil_en : (s.takeInil).en = s.en := by
  unfold State.takeInil; split <;> rfl
@[simp] theorem State.takeInil_g : (s.takeInil).g = s.g := by
  unfold State.takeInil; split <;> rfl
@[simp] theorem State.takeInil_il3 : (s.takeInil).il3 = s.il3 := by
  unfold State.takeInil; split <;> rfl
@[simp] theorem State.takeInil_il0 : (s.takeInil).il0 = s.il0 := by
  unfold State.takeInil; split <;> rfl
@[simp] theorem State.takeInil_q : (s.takeInil).q = s.q := by
  unfold State.takeInil; split <;> rfl
@[simp] theorem State.takeInil_sio : (s.takeInil).sio = s.sio := by
  unfold State.takeInil; split <;> rfl
@[simp] theorem State.takeInil_skl : (s.takeInil).skl = s.skl := by
  unfold State.takeInil; split <;> rfl
@[simp] theorem State.takeInil_t : (s.takeInil).t = s.t := by
  unfold State.takeInil; split <;> rfl
@[simp] theorem State.takeInil_tp : (s.takeInil).tp = s.tp := by
  unfold State.takeInil; split <;> rfl
@[simp] theorem State.takeInil_tov : (s.takeInil).tov = s.tov := by
  unfold State.takeInil; split <;> rfl
@[simp] theorem State.takeInil_pc : (s.takeInil).pc = s.pc := by
  unfold State.takeInil; split <;> rfl
@[simp] theorem State.takeInil_sa : (s.takeInil).sa = s.sa := by
  unfold State.takeInil; split <;> rfl
@[simp] theorem State.takeInil_sb : (s.takeInil).sb = s.sb := by
  unfold State.takeInil; split <;> rfl
@[simp] theorem State.takeInil_sc : (s.takeInil).sc = s.sc := by
  unfold State.takeInil; split <;> rfl
@[simp] theorem State.takeInil_skip : (s.takeInil).skip = s.skip := by
  unfold State.takeInil; split <;> rfl
@[simp] theorem State.takeInil_lbiChain : (s.takeInil).lbiChain = s.lbiChain := by
  unfold State.takeInil; split <;> rfl
@[simp] theorem State.takeInil_sskip : (s.takeInil).sskip = s.sskip := by
  unfold State.takeInil; split <;> rfl
@[simp] theorem State.takeInil_intReq : (s.takeInil).intReq = s.intReq := by
  unfold State.takeInil; split <;> rfl
@[simp] theorem State.takeInil_halted : (s.takeInil).halted = s.halted := by
  unfold State.takeInil; split <;> rfl
@[simp] theorem State.takeInil_clockStopped : (s.takeInil).clockStopped = s.clockStopped := by
  unfold State.takeInil; split <;> rfl
@[simp] theorem State.takeInil_idle : (s.takeInil).idle = s.idle := by
  unfold State.takeInil; split <;> rfl
@[simp] theorem State.takeInil_events : (s.takeInil).events = s.events := by
  unfold State.takeInil; split <;> rfl
@[simp] theorem State.takeInil_ramEpoch : (s.takeInil).ramEpoch = s.ramEpoch := by
  unfold State.takeInil; split <;> rfl

/-! ### timeBase: the fields it leaves alone -/

@[simp] theorem State.timeBase_cfg : (s.timeBase).cfg = s.cfg := by
  unfold State.timeBase; split <;> rfl
@[simp] theorem State.timeBase_rom : (s.timeBase).rom = s.rom := by
  unfold State.timeBase; split <;> rfl
@[simp] theorem State.timeBase_ram : (s.timeBase).ram = s.ram := by
  unfold State.timeBase; split <;> rfl
@[simp] theorem State.timeBase_a : (s.timeBase).a = s.a := by
  unfold State.timeBase; split <;> rfl
@[simp] theorem State.timeBase_b : (s.timeBase).b = s.b := by
  unfold State.timeBase; split <;> rfl
@[simp] theorem State.timeBase_c : (s.timeBase).c = s.c := by
  unfold State.timeBase; split <;> rfl
@[simp] theorem State.timeBase_d : (s.timeBase).d = s.d := by
  unfold State.timeBase; split <;> rfl
@[simp] theorem State.timeBase_en : (s.timeBase).en = s.en := by
  unfold State.timeBase; split <;> rfl
@[simp] theorem State.timeBase_g : (s.timeBase).g = s.g := by
  unfold State.timeBase; split <;> rfl
@[simp] theorem State.timeBase_il3 : (s.timeBase).il3 = s.il3 := by
  unfold State.timeBase; split <;> rfl
@[simp] theorem State.timeBase_il0 : (s.timeBase).il0 = s.il0 := by
  unfold State.timeBase; split <;> rfl
@[simp] theorem State.timeBase_q : (s.timeBase).q = s.q := by
  unfold State.timeBase; split <;> rfl
@[simp] theorem State.timeBase_sio : (s.timeBase).sio = s.sio := by
  unfold State.timeBase; split <;> rfl
@[simp] theorem State.timeBase_skl : (s.timeBase).skl = s.skl := by
  unfold State.timeBase; split <;> rfl
@[simp] theorem State.timeBase_pc : (s.timeBase).pc = s.pc := by
  unfold State.timeBase; split <;> rfl
@[simp] theorem State.timeBase_sa : (s.timeBase).sa = s.sa := by
  unfold State.timeBase; split <;> rfl
@[simp] theorem State.timeBase_sb : (s.timeBase).sb = s.sb := by
  unfold State.timeBase; split <;> rfl
@[simp] theorem State.timeBase_sc : (s.timeBase).sc = s.sc := by
  unfold State.timeBase; split <;> rfl
@[simp] theorem State.timeBase_skip : (s.timeBase).skip = s.skip := by
  unfold State.timeBase; split <;> rfl
@[simp] theorem State.timeBase_lbiChain : (s.timeBase).lbiChain = s.lbiChain := by
  unfold State.timeBase; split <;> rfl
@[simp] theorem State.timeBase_sskip : (s.timeBase).sskip = s.sskip := by
  unfold State.timeBase; split <;> rfl
@[simp] theorem State.timeBase_intReq : (s.timeBase).intReq = s.intReq := by
  unfold State.timeBase; split <;> rfl
@[simp] theorem State.timeBase_halted : (s.timeBase).halted = s.halted := by
  unfold State.timeBase; split <;> rfl
@[simp] theorem State.timeBase_clockStopped : (s.timeBase).clockStopped = s.clockStopped := by
  unfold State.timeBase; split <;> rfl
@[simp] theorem State.timeBase_events : (s.timeBase).events = s.events := by
  unfold State.timeBase; split <;> rfl
@[simp] theorem State.timeBase_pinQueue : (s.timeBase).pinQueue = s.pinQueue := by
  unfold State.timeBase; split <;> rfl
@[simp] theorem State.timeBase_freeIndex : (s.timeBase).freeIndex = s.freeIndex := by
  unfold State.timeBase; split <;> rfl
@[simp] theorem State.timeBase_ramEpoch : (s.timeBase).ramEpoch = s.ramEpoch := by
  unfold State.timeBase; split <;> rfl

/-! ### serial: the fields it leaves alone -/

@[simp] theorem State.serial_cfg : (s.serial).cfg = s.cfg := by
  unfold State.serial; split <;> rfl
@[simp] theorem State.serial_rom : (s.serial).rom = s.rom := by
  unfold State.serial; split <;> rfl
@[simp] theorem State.serial_ram : (s.serial).ram = s.ram := by
  unfold State.serial; split <;> rfl
@[simp] theorem State.serial_a : (s.serial).a = s.a := by
  unfold State.serial; split <;> rfl
@[simp] theorem State.serial_b : (s.serial).b = s.b := by
  unfold State.serial; split <;> rfl
@[simp] theorem State.serial_c : (s.serial).c = s.c := by
  unfold State.serial; split <;> rfl
@[simp] theorem State.serial_d : (s.serial).d = s.d := by
  unfold State.serial; split <;> rfl
@[simp] theorem State.serial_en : (s.serial).en = s.en := by
  unfold State.serial; split <;> rfl
@[simp] theorem State.serial_g : (s.serial).g = s.g := by
  unfold State.serial; split <;> rfl
@[simp] theorem State.serial_il3 : (s.serial).il3 = s.il3 := by
  unfold State.serial; split <;> rfl
@[simp] theorem State.serial_il0 : (s.serial).il0 = s.il0 := by
  unfold State.serial; split <;> rfl
@[simp] theorem State.serial_q : (s.serial).q = s.q := by
  unfold State.serial; split <;> rfl
@[simp] theorem State.serial_skl : (s.serial).skl = s.skl := by
  unfold State.serial; split <;> rfl
@[simp] theorem State.serial_t : (s.serial).t = s.t := by
  unfold State.serial; split <;> rfl
@[simp] theorem State.serial_tp : (s.serial).tp = s.tp := by
  unfold State.serial; split <;> rfl
@[simp] theorem State.serial_tov : (s.serial).tov = s.tov := by
  unfold State.serial; split <;> rfl
@[simp] theorem State.serial_pc : (s.serial).pc = s.pc := by
  unfold State.serial; split <;> rfl
@[simp] theorem State.serial_sa : (s.serial).sa = s.sa := by
  unfold State.serial; split <;> rfl
@[simp] theorem State.serial_sb : (s.serial).sb = s.sb := by
  unfold State.serial; split <;> rfl
@[simp] theorem State.serial_sc : (s.serial).sc = s.sc := by
  unfold State.serial; split <;> rfl
@[simp] theorem State.serial_skip : (s.serial).skip = s.skip := by
  unfold State.serial; split <;> rfl
@[simp] theorem State.serial_lbiChain : (s.serial).lbiChain = s.lbiChain := by
  unfold State.serial; split <;> rfl
@[simp] theorem State.serial_sskip : (s.serial).sskip = s.sskip := by
  unfold State.serial; split <;> rfl
@[simp] theorem State.serial_intReq : (s.serial).intReq = s.intReq := by
  unfold State.serial; split <;> rfl
@[simp] theorem State.serial_halted : (s.serial).halted = s.halted := by
  unfold State.serial; split <;> rfl
@[simp] theorem State.serial_clockStopped : (s.serial).clockStopped = s.clockStopped := by
  unfold State.serial; split <;> rfl
@[simp] theorem State.serial_idle : (s.serial).idle = s.idle := by
  unfold State.serial; split <;> rfl
@[simp] theorem State.serial_events : (s.serial).events = s.events := by
  unfold State.serial; split <;> rfl
@[simp] theorem State.serial_ramEpoch : (s.serial).ramEpoch = s.ramEpoch := by
  unfold State.serial; split <;> rfl

/-! ### tick and ticks: the fields they leave alone -/

@[simp] theorem State.tick_cfg (camt : Bool) : (s.tick camt).cfg = s.cfg := by
  unfold State.tick; split <;> simp
@[simp] theorem State.tick_rom (camt : Bool) : (s.tick camt).rom = s.rom := by
  unfold State.tick; split <;> simp
@[simp] theorem State.tick_ram (camt : Bool) : (s.tick camt).ram = s.ram := by
  unfold State.tick; split <;> simp
@[simp] theorem State.tick_a (camt : Bool) : (s.tick camt).a = s.a := by
  unfold State.tick; split <;> simp
@[simp] theorem State.tick_b (camt : Bool) : (s.tick camt).b = s.b := by
  unfold State.tick; split <;> simp
@[simp] theorem State.tick_c (camt : Bool) : (s.tick camt).c = s.c := by
  unfold State.tick; split <;> simp
@[simp] theorem State.tick_d (camt : Bool) : (s.tick camt).d = s.d := by
  unfold State.tick; split <;> simp
@[simp] theorem State.tick_en (camt : Bool) : (s.tick camt).en = s.en := by
  unfold State.tick; split <;> simp
@[simp] theorem State.tick_g (camt : Bool) : (s.tick camt).g = s.g := by
  unfold State.tick; split <;> simp
@[simp] theorem State.tick_il3 (camt : Bool) : (s.tick camt).il3 = s.il3 := by
  unfold State.tick; split <;> simp
@[simp] theorem State.tick_il0 (camt : Bool) : (s.tick camt).il0 = s.il0 := by
  unfold State.tick; split <;> simp
@[simp] theorem State.tick_q (camt : Bool) : (s.tick camt).q = s.q := by
  unfold State.tick; split <;> simp
@[simp] theorem State.tick_skl (camt : Bool) : (s.tick camt).skl = s.skl := by
  unfold State.tick; split <;> simp
@[simp] theorem State.tick_pc (camt : Bool) : (s.tick camt).pc = s.pc := by
  unfold State.tick; split <;> simp
@[simp] theorem State.tick_sa (camt : Bool) : (s.tick camt).sa = s.sa := by
  unfold State.tick; split <;> simp
@[simp] theorem State.tick_sb (camt : Bool) : (s.tick camt).sb = s.sb := by
  unfold State.tick; split <;> simp
@[simp] theorem State.tick_sc (camt : Bool) : (s.tick camt).sc = s.sc := by
  unfold State.tick; split <;> simp
@[simp] theorem State.tick_skip (camt : Bool) : (s.tick camt).skip = s.skip := by
  unfold State.tick; split <;> simp
@[simp] theorem State.tick_lbiChain (camt : Bool) : (s.tick camt).lbiChain = s.lbiChain := by
  unfold State.tick; split <;> simp
@[simp] theorem State.tick_sskip (camt : Bool) : (s.tick camt).sskip = s.sskip := by
  unfold State.tick; split <;> simp
@[simp] theorem State.tick_intReq (camt : Bool) : (s.tick camt).intReq = s.intReq := by
  unfold State.tick; split <;> simp
@[simp] theorem State.tick_halted (camt : Bool) : (s.tick camt).halted = s.halted := by
  unfold State.tick; split <;> simp
@[simp] theorem State.tick_clockStopped (camt : Bool) : (s.tick camt).clockStopped = s.clockStopped := by
  unfold State.tick; split <;> simp
@[simp] theorem State.tick_events (camt : Bool) : (s.tick camt).events = s.events := by
  unfold State.tick; split <;> simp
@[simp] theorem State.tick_ramEpoch (camt : Bool) : (s.tick camt).ramEpoch = s.ramEpoch := by
  unfold State.tick; split <;> simp
@[simp] theorem State.ticks_cfg (camt : Bool) (n : Nat) : (State.ticks camt n s).cfg = s.cfg := by
  induction n generalizing s with
  | zero => rfl
  | succ n ih => simp [State.ticks, ih]
@[simp] theorem State.ticks_rom (camt : Bool) (n : Nat) : (State.ticks camt n s).rom = s.rom := by
  induction n generalizing s with
  | zero => rfl
  | succ n ih => simp [State.ticks, ih]
@[simp] theorem State.ticks_ram (camt : Bool) (n : Nat) : (State.ticks camt n s).ram = s.ram := by
  induction n generalizing s with
  | zero => rfl
  | succ n ih => simp [State.ticks, ih]
@[simp] theorem State.ticks_a (camt : Bool) (n : Nat) : (State.ticks camt n s).a = s.a := by
  induction n generalizing s with
  | zero => rfl
  | succ n ih => simp [State.ticks, ih]
@[simp] theorem State.ticks_b (camt : Bool) (n : Nat) : (State.ticks camt n s).b = s.b := by
  induction n generalizing s with
  | zero => rfl
  | succ n ih => simp [State.ticks, ih]
@[simp] theorem State.ticks_c (camt : Bool) (n : Nat) : (State.ticks camt n s).c = s.c := by
  induction n generalizing s with
  | zero => rfl
  | succ n ih => simp [State.ticks, ih]
@[simp] theorem State.ticks_d (camt : Bool) (n : Nat) : (State.ticks camt n s).d = s.d := by
  induction n generalizing s with
  | zero => rfl
  | succ n ih => simp [State.ticks, ih]
@[simp] theorem State.ticks_en (camt : Bool) (n : Nat) : (State.ticks camt n s).en = s.en := by
  induction n generalizing s with
  | zero => rfl
  | succ n ih => simp [State.ticks, ih]
@[simp] theorem State.ticks_g (camt : Bool) (n : Nat) : (State.ticks camt n s).g = s.g := by
  induction n generalizing s with
  | zero => rfl
  | succ n ih => simp [State.ticks, ih]
@[simp] theorem State.ticks_il3 (camt : Bool) (n : Nat) : (State.ticks camt n s).il3 = s.il3 := by
  induction n generalizing s with
  | zero => rfl
  | succ n ih => simp [State.ticks, ih]
@[simp] theorem State.ticks_il0 (camt : Bool) (n : Nat) : (State.ticks camt n s).il0 = s.il0 := by
  induction n generalizing s with
  | zero => rfl
  | succ n ih => simp [State.ticks, ih]
@[simp] theorem State.ticks_q (camt : Bool) (n : Nat) : (State.ticks camt n s).q = s.q := by
  induction n generalizing s with
  | zero => rfl
  | succ n ih => simp [State.ticks, ih]
@[simp] theorem State.ticks_skl (camt : Bool) (n : Nat) : (State.ticks camt n s).skl = s.skl := by
  induction n generalizing s with
  | zero => rfl
  | succ n ih => simp [State.ticks, ih]
@[simp] theorem State.ticks_pc (camt : Bool) (n : Nat) : (State.ticks camt n s).pc = s.pc := by
  induction n generalizing s with
  | zero => rfl
  | succ n ih => simp [State.ticks, ih]
@[simp] theorem State.ticks_sa (camt : Bool) (n : Nat) : (State.ticks camt n s).sa = s.sa := by
  induction n generalizing s with
  | zero => rfl
  | succ n ih => simp [State.ticks, ih]
@[simp] theorem State.ticks_sb (camt : Bool) (n : Nat) : (State.ticks camt n s).sb = s.sb := by
  induction n generalizing s with
  | zero => rfl
  | succ n ih => simp [State.ticks, ih]
@[simp] theorem State.ticks_sc (camt : Bool) (n : Nat) : (State.ticks camt n s).sc = s.sc := by
  induction n generalizing s with
  | zero => rfl
  | succ n ih => simp [State.ticks, ih]
@[simp] theorem State.ticks_skip (camt : Bool) (n : Nat) : (State.ticks camt n s).skip = s.skip := by
  induction n generalizing s with
  | zero => rfl
  | succ n ih => simp [State.ticks, ih]
@[simp] theorem State.ticks_lbiChain (camt : Bool) (n : Nat) : (State.ticks camt n s).lbiChain = s.lbiChain := by
  induction n generalizing s with
  | zero => rfl
  | succ n ih => simp [State.ticks, ih]
@[simp] theorem State.ticks_sskip (camt : Bool) (n : Nat) : (State.ticks camt n s).sskip = s.sskip := by
  induction n generalizing s with
  | zero => rfl
  | succ n ih => simp [State.ticks, ih]
@[simp] theorem State.ticks_intReq (camt : Bool) (n : Nat) : (State.ticks camt n s).intReq = s.intReq := by
  induction n generalizing s with
  | zero => rfl
  | succ n ih => simp [State.ticks, ih]
@[simp] theorem State.ticks_halted (camt : Bool) (n : Nat) : (State.ticks camt n s).halted = s.halted := by
  induction n generalizing s with
  | zero => rfl
  | succ n ih => simp [State.ticks, ih]
@[simp] theorem State.ticks_clockStopped (camt : Bool) (n : Nat) : (State.ticks camt n s).clockStopped = s.clockStopped := by
  induction n generalizing s with
  | zero => rfl
  | succ n ih => simp [State.ticks, ih]
@[simp] theorem State.ticks_events (camt : Bool) (n : Nat) : (State.ticks camt n s).events = s.events := by
  induction n generalizing s with
  | zero => rfl
  | succ n ih => simp [State.ticks, ih]
@[simp] theorem State.ticks_ramEpoch (camt : Bool) (n : Nat) : (State.ticks camt n s).ramEpoch = s.ramEpoch := by
  induction n generalizing s with
  | zero => rfl
  | succ n ih => simp [State.ticks, ih]

/-! ### reset and power-up: the fields they leave alone or set without a choice -/

@[simp] theorem State.resetPin_cfg : (s.resetPin).cfg = s.cfg := rfl
@[simp] theorem State.resetPin_rom : (s.resetPin).rom = s.rom := rfl
@[simp] theorem State.resetPin_ram : (s.resetPin).ram = s.ram := rfl
@[simp] theorem State.resetPin_events : (s.resetPin).events = s.events := rfl
@[simp] theorem State.resetPin_pinQueue : (s.resetPin).pinQueue = s.pinQueue := rfl
@[simp] theorem State.resetPin_freeIndex : (s.resetPin).freeIndex = s.freeIndex + 1 := rfl
@[simp] theorem State.resetPin_ramEpoch : (s.resetPin).ramEpoch = s.ramEpoch := rfl
@[simp] theorem State.resetPin_clockStopped : (s.resetPin).clockStopped = false := rfl
@[simp] theorem State.uninitialized_cfg : (s.uninitialized).cfg = s.cfg := rfl
@[simp] theorem State.uninitialized_rom : (s.uninitialized).rom = s.rom := rfl
@[simp] theorem State.uninitialized_ram : (s.uninitialized).ram = s.ram := rfl
@[simp] theorem State.uninitialized_events : (s.uninitialized).events = s.events := rfl
@[simp] theorem State.uninitialized_pinQueue : (s.uninitialized).pinQueue = s.pinQueue := rfl
@[simp] theorem State.uninitialized_freeIndex : (s.uninitialized).freeIndex = s.freeIndex + 1 := rfl
@[simp] theorem State.uninitialized_ramEpoch : (s.uninitialized).ramEpoch = s.ramEpoch := rfl
@[simp] theorem State.uninitialized_clockStopped : (s.uninitialized).clockStopped = false := rfl
@[simp] theorem State.powerUp_cfg : (s.powerUp).cfg = s.cfg := by
  unfold State.powerUp; split <;> rfl
@[simp] theorem State.powerUp_rom : (s.powerUp).rom = s.rom := by
  unfold State.powerUp; split <;> rfl
@[simp] theorem State.powerUp_events : (s.powerUp).events = s.events := by
  unfold State.powerUp; split <;> rfl
@[simp] theorem State.powerUp_pinQueue : (s.powerUp).pinQueue = s.pinQueue := by
  unfold State.powerUp; split <;> rfl
@[simp] theorem State.powerUp_freeIndex : (s.powerUp).freeIndex = s.freeIndex + 1 := by
  unfold State.powerUp; split <;> rfl
@[simp] theorem State.powerUp_clockStopped : (s.powerUp).clockStopped = false := by
  unfold State.powerUp; split <;> rfl
@[simp] theorem State.powerUp_ram : s.powerUp.ram = [] := rfl
@[simp] theorem State.powerUp_ramEpoch : s.powerUp.ramEpoch = s.ramEpoch + 1 := rfl

end Sys2Proof.Machine
end

