-- ==== Sys2Proof/Laws/Memory.lean ====
section
/-! SUPPORT. The laws of the two memories: read after write, the canonical form and that every memory operation keeps
it, and that equal contents in canonical form are equal data. -/

namespace Sys2Proof.Machine

variable {w : Nat}

/-- A stored value is the value the address holds. -/
@[simp] theorem Memory.lookup_store_same (m : Memory w) (i : Nat) (v : BitVec w) :
    Memory.lookup (Memory.store m i v) i = some v := by
  induction m with
  | nil => simp [Memory.store, Memory.lookup]
  | cons p m ih =>
    obtain ⟨k, x⟩ := p
    simp only [Memory.store]
    split
    · simp [Memory.lookup]
    · split
      · simp [Memory.lookup]
      · rename_i h1 h2
        have : k ≠ i := fun h => h2 h.symm
        simp [Memory.lookup, this, ih]

/-- A store leaves every other address alone. -/
theorem Memory.lookup_store_other (m : Memory w) {i j : Nat} (v : BitVec w) (h : j ≠ i) :
    Memory.lookup (Memory.store m i v) j = Memory.lookup m j := by
  induction m with
  | nil => simp [Memory.store, Memory.lookup, h.symm]
  | cons p m ih =>
    obtain ⟨k, x⟩ := p
    simp only [Memory.store]
    split
    · simp [Memory.lookup, h.symm]
    · split
      · subst_vars
        simp [Memory.lookup, h.symm]
      · simp [Memory.lookup, ih]

/-- A lower bound on the addresses may be lowered. -/
theorem Memory.within_mono {hi lo lo' : Nat} {m : Memory w} (h : Memory.within hi lo m = true) (hle : lo' ≤ lo) :
    Memory.within hi lo' m = true := by
  cases m with
  | nil => rfl
  | cons p m =>
    simp only [Memory.within, Bool.and_eq_true, decide_eq_true_eq] at h ⊢
    exact ⟨⟨by omega, h.1.2⟩, h.2⟩

/-- A store inside the bounds keeps them and the order. -/
theorem Memory.within_store {hi lo i : Nat} {m : Memory w} (v : BitVec w) (h : Memory.within hi lo m = true)
    (hlo : lo ≤ i) (hhi : i < hi) : Memory.within hi lo (Memory.store m i v) = true := by
  induction m generalizing lo with
  | nil => simp [Memory.store, Memory.within, hlo, hhi]
  | cons p m ih =>
    obtain ⟨k, x⟩ := p
    simp only [Memory.within, Bool.and_eq_true, decide_eq_true_eq] at h
    simp only [Memory.store]
    split
    · rename_i hik
      simp only [Memory.within, Bool.and_eq_true, decide_eq_true_eq]
      exact ⟨⟨hlo, hhi⟩, ⟨by omega, h.1.2⟩, h.2⟩
    · split
      · subst_vars
        simp only [Memory.within, Bool.and_eq_true, decide_eq_true_eq]
        exact ⟨⟨hlo, hhi⟩, h.2⟩
      · simp only [Memory.within, Bool.and_eq_true, decide_eq_true_eq]
        exact ⟨h.1, ih h.2 (by omega)⟩

/-- A store keeps the canonical form. -/
theorem Memory.wf_store {size i : Nat} {m : Memory w} (v : BitVec w) (h : Memory.wf size m = true) (hi : i < size) :
    Memory.wf size (Memory.store m i v) = true :=
  Memory.within_store v h (Nat.zero_le i) hi

/-- The memory with nothing listed is in canonical form. -/
@[simp] theorem Memory.wf_nil (size : Nat) : Memory.wf size ([] : Memory w) = true := rfl

/-- An address below the bound of the listed ones is not listed. -/
theorem Memory.lookup_below {hi lo i : Nat} {m : Memory w} (h : Memory.within hi lo m = true) (hi' : i < lo) :
    Memory.lookup m i = none := by
  induction m generalizing lo with
  | nil => rfl
  | cons p m ih =>
    obtain ⟨k, x⟩ := p
    simp only [Memory.within, Bool.and_eq_true, decide_eq_true_eq] at h
    have hk : k ≠ i := by omega
    simp only [Memory.lookup, if_neg hk]
    exact ih h.2 (by omega)

/-- Memories in canonical form that hold the same values are the same list. -/
theorem Memory.within_ext {hi lo : Nat} {m m' : Memory w} (h : Memory.within hi lo m = true)
    (h' : Memory.within hi lo m' = true) (he : ∀ i, Memory.lookup m i = Memory.lookup m' i) : m = m' := by
  induction m generalizing lo m' with
  | nil =>
    cases m' with
    | nil => rfl
    | cons p m' =>
      have := he p.1
      simp [Memory.lookup] at this
  | cons p m ih =>
    cases m' with
    | nil =>
      have := he p.1
      simp [Memory.lookup] at this
    | cons p' m' =>
      obtain ⟨k, x⟩ := p
      obtain ⟨k', x'⟩ := p'
      simp only [Memory.within, Bool.and_eq_true, decide_eq_true_eq] at h h'
      have hkk : k = k' := by
        rcases Nat.lt_trichotomy k k' with hlt | heq | hgt
        · have e := he k
          have hne : k' ≠ k := by omega
          have hb := Memory.lookup_below h'.2 (show k < k' + 1 by omega)
          simp [Memory.lookup, hne, hb] at e
        · exact heq
        · have e := he k'
          have hne : k ≠ k' := by omega
          have hb := Memory.lookup_below h.2 (show k' < k + 1 by omega)
          simp [Memory.lookup, hne, hb] at e
      subst hkk
      have hx : x = x' := by
        have e := he k
        simpa [Memory.lookup] using e
      have hm : m = m' := by
        refine ih h.2 h'.2 fun i => ?_
        by_cases hik : k = i
        · subst hik
          rw [Memory.lookup_below h.2 (Nat.lt_succ_self k), Memory.lookup_below h'.2 (Nat.lt_succ_self k)]
        · have e := he i
          simpa [Memory.lookup, hik] using e
      rw [hx, hm]

/-- Equal contents in canonical form are equal data. -/
theorem Memory.wf_ext {size : Nat} {m m' : Memory w} (h : Memory.wf size m = true) (h' : Memory.wf size m' = true)
    (he : ∀ i, Memory.lookup m i = Memory.lookup m' i) : m = m' :=
  Memory.within_ext h h' he

/-! ### Digits of the state -/

/-- The digit read at the address of a store. -/
@[simp] theorem State.readDigit_writeDigit_same (s : State) (i : Nat) (v : Digit) :
    (s.writeDigit i v).readDigit i = v := by
  simp [State.readDigit]

/-- Every other digit reads as before the store. -/
theorem State.readDigit_writeDigit_other (s : State) {i j : Nat} (v : Digit) (h : j ≠ i) :
    (s.writeDigit i v).readDigit j = s.readDigit j := by
  simp [State.readDigit, Memory.lookup_store_other _ _ h]

/-- What a digit reads as is decided by RAM and the power-up it belongs to. -/
theorem State.readDigit_congr {s t : State} (hr : t.ram = s.ram) (he : t.ramEpoch = s.ramEpoch) (i : Nat) :
    t.readDigit i = s.readDigit i := by
  simp [State.readDigit, hr, he]

/-- What a ROM word reads as is decided by the ROM and the part. -/
theorem State.romRead_congr {s t : State} (hr : t.rom = s.rom) (hc : t.cfg = s.cfg) (i : RomAddr) :
    t.romRead i = s.romRead i := by
  simp [State.romRead, State.romIndex, hr, hc]

/-- A state with the same memories, power-up and part stores nothing. -/
theorem storesNothing_of {s t : State} (h1 : t.ram = s.ram) (h2 : t.ramEpoch = s.ramEpoch) (h3 : t.rom = s.rom)
    (h4 : t.cfg = s.cfg) : StoresNothing s t :=
  ⟨State.readDigit_congr h1 h2, State.romRead_congr h3 h4⟩

/-- A state whose RAM is the old one with one store, and whose ROM is the old one, stores only there. -/
theorem storesOnly_of {s t : State} {i : Nat} {v : Digit} (h1 : t.ram = Memory.store s.ram i v)
    (h2 : t.ramEpoch = s.ramEpoch) (h3 : t.rom = s.rom) (h4 : t.cfg = s.cfg) : StoresOnly i v s t := by
  refine ⟨by simp [State.readDigit, h1], fun j hj => ?_, State.romRead_congr h3 h4⟩
  simp [State.readDigit, h1, h2, Memory.lookup_store_other _ _ hj]

/-- A ROM word lies inside the ROM of the part (R71). -/
theorem State.romIndex_lt (s : State) (i : RomAddr) : s.romIndex i < s.cfg.part.romBytes := by
  apply Nat.mod_lt
  unfold Part.romBytes
  split <;> omega

end Sys2Proof.Machine
end

