-- ==== Sys2Proof/Laws/Ops.lean ====
section
/-! SUPPORT. What each shared operation can do, once: register B and its fields, the RAM addresses, the stack, the
ticks and the interrupt. -/

namespace Sys2Proof.Machine

variable (s : State)

/-! ### Register B -/

/-- Fitting a value to register B twice is fitting it once. -/
@[simp] theorem State.fitB_fitB (v : BitVec 7) : s.fitB (s.fitB v) = s.fitB v := by
  unfold State.fitB
  split
  · rfl
  · rw [BitVec.and_assoc, BitVec.and_self]

/-- The width of B depends on the part alone. -/
theorem State.fitB_congr {s t : State} (h : t.cfg = s.cfg) (v : BitVec 7) : t.fitB v = s.fitB v := by
  simp [State.fitB, h]

/-- Register B after a load. -/
@[simp] theorem State.regB_setB (v : BitVec 7) : (s.setB v).regB = s.fitB v := by
  have h : (s.setB v).fitB (s.fitB v) = s.fitB (s.fitB v) := State.fitB_congr rfl _
  simp [State.regB, h]

/-- Register B depends on its field and the part alone. -/
theorem State.regB_congr {s t : State} (hc : t.cfg = s.cfg) (hb : t.b = s.b) : t.regB = s.regB := by
  simp [State.regB, State.fitB, hc, hb]

/-- The address in B lies inside the RAM of the part (R73). -/
theorem State.ramAddr_lt : s.ramAddr < s.cfg.part.ramDigits := by
  unfold State.ramAddr State.regB State.fitB Part.ramDigits
  split
  · exact s.b.isLt
  · rw [BitVec.toNat_and]
    exact Nat.lt_of_le_of_lt Nat.and_le_right (by decide)

/-- The address r.d of a register that the part has lies inside its RAM (R73, R75). -/
theorem State.directAddr_lt {r : BitVec 3} {d : Digit} (h : s.hasRegister r = true) :
    directAddr r d < s.cfg.part.ramDigits := by
  have hr := r.isLt
  have hd := d.isLt
  unfold State.hasRegister at h
  unfold directAddr Part.ramDigits
  split
  · omega
  · rename_i h2
    simp [h2] at h
    omega

/-- The fields of a joined value. -/
theorem joined_fields (r : BitVec 3) (d : Digit) :
    (r ++ d).extractLsb' 4 3 = r ∧ (r ++ d).extractLsb' 0 4 = d := by
  revert r d
  decide

/-- B as its two fields (R21). -/
theorem State.br_append_bd : s.br ++ s.bd = s.regB := by
  unfold State.br State.bd
  generalize s.regB = v
  revert v
  decide

/-- Br after a load of both fields: on a 1K part its third bit does not exist. -/
theorem State.br_setBrBd (r : BitVec 3) (d : Digit) :
    (s.setBrBd r d).br = if s.cfg.part.is2K then r else r &&& 3#3 := by
  simp only [State.setBrBd, State.br, State.regB_setB, State.fitB]
  split
  · exact (joined_fields r d).1
  · revert r d
    decide

/-- Bd after a load of both fields. -/
@[simp] theorem State.bd_setBrBd (r : BitVec 3) (d : Digit) : (s.setBrBd r d).bd = d := by
  simp only [State.setBrBd, State.bd, State.regB_setB, State.fitB]
  split
  · exact (joined_fields r d).2
  · revert r d
    decide

/-- A load of both fields of B is a load of B. -/
theorem State.setBrBd_eq (r : BitVec 3) (d : Digit) : s.setBrBd r d = s.setB (r ++ d) := rfl

/-- A store to M is a store at the address in B. -/
@[simp] theorem State.setM_eq (v : Digit) : s.setM v = s.writeDigit s.ramAddr v := rfl

/-! ### The stack -/

/-- The pop is the parallel move and the restored skip status (R10, R258). -/
theorem State.pop_eq :
    s.pop = { s with pc := s.sa, sa := s.sb, sb := s.sc, skip := s.sskip, sskip := false } := by
  simp [State.pop, State.popAddress, State.restoreSkipIf]

/-- A pop after a push returns to the pushed address and loses the old SC (R42). -/
theorem State.popAddress_push (v : RomAddr) :
    (s.push v).popAddress = { s with pc := v, sc := s.sb } := rfl

/-! ### Ticks -/

/-- A tick of an executed CAMT leaves the time base alone (R266). -/
theorem State.tick_true : s.tick true = s.serial := rfl

/-- Every other tick is the time base, then the serial port (R261). -/
theorem State.tick_false : s.tick false = s.timeBase.serial := rfl

/-- Ticks add up. -/
theorem State.ticks_add (camt : Bool) (m n : Nat) :
    State.ticks camt (m + n) s = State.ticks camt n (State.ticks camt m s) := by
  induction m generalizing s with
  | zero => simp [State.ticks]
  | succ m ih => rw [Nat.succ_add]; exact ih _

/-- The serial port has no part in the time base. -/
theorem State.serial_timeBaseFields :
    s.serial.t = s.t ∧ s.serial.tp = s.tp ∧ s.serial.tov = s.tov ∧ s.serial.idle = s.idle :=
  ⟨by simp, by simp, by simp, by simp⟩

/-- In the counter mode of SIO a tick does not change it (R275). -/
theorem State.serial_counterMode (h : s.en.getLsbD 0 = true) : s.serial = s := by
  simp [State.serial, h]

/-- In the event-counter mode a cycle does not change the time base (R264). -/
theorem State.timeBase_eventCounter (h : s.cfg.options.timer = .eventCounter) : s.timeBase = s := by
  simp [State.timeBase, h]

/-- The time-base tick adds 1 to the 10-bit count modulo 1024, and sets TOV when it wraps (R263). -/
theorem State.timeBase_count (h : s.cfg.options.timer = .timeBase) :
    s.timeBase.count10 = (s.count10 + 1) % 1024
      ∧ s.timeBase.tov = (s.tov || decide (s.count10 = 1023))
      ∧ s.timeBase.idle = (s.idle && !decide (s.count10 = 1023)) := by
  have ht := s.t.isLt
  have hp := s.tp.isLt
  have key : (s.tp == 3#2 && s.t == 0xFF#8) = decide (s.count10 = 1023) := by
    have h1 : (s.tp = 3#2) ↔ s.tp.toNat = 3 := by rw [← BitVec.toNat_inj]; rfl
    have h2 : (s.t = 0xFF#8) ↔ s.t.toNat = 255 := by rw [← BitVec.toNat_inj]; rfl
    unfold State.count10
    rw [Bool.eq_iff_iff]
    simp only [Bool.and_eq_true, beq_iff_eq, decide_eq_true_eq, h1, h2]
    omega
  refine ⟨?_, ?_, ?_⟩
  · have h1 : (s.tp = 3#2) ↔ s.tp.toNat = 3 := by rw [← BitVec.toNat_inj]; rfl
    by_cases h3 : s.tp = 3#2
    · have := h1.1 h3
      simp only [State.timeBase, h, if_true, State.count10, State.countIf, h3, beq_self_eq_true, BitVec.toNat_add]
      simp
      omega
    · have hn : s.tp.toNat ≠ 3 := fun e => h3 (h1.2 e)
      simp only [State.timeBase, h, if_true, State.count10, State.countIf, BitVec.toNat_add]
      have hb : (s.tp == 3#2) = false := by simpa using h3
      simp [hb]
      omega
  · simp only [State.timeBase, h, if_true, State.countIf, key]
  · simp only [State.timeBase, h, if_true, key]

/-! ### The interrupt -/

/-- What the entry leaves after its cycles, but for what the cycles change (R255). -/
theorem State.interrupt_spec :
    s.interrupt.pc = 0x0FF#11 ∧ s.interrupt.sa = s.pc ∧ s.interrupt.sb = s.sa ∧ s.interrupt.sc = s.sb
      ∧ s.interrupt.sskip = s.skip ∧ s.interrupt.skip = false ∧ s.interrupt.intReq = false
      ∧ s.interrupt.en = s.en &&& 0b1101#4 := by
  simp [State.interrupt]

end Sys2Proof.Machine
end

