-- ==== Sys2Proof/Laws/Flags.lean ====
section
/-! SUPPORT. What the operand forms and the flag computations give, as numbers and bits. -/

namespace Sys2Proof.Machine

/-! ### The adder -/

/-- The sum is taken modulo 16. -/
theorem sumDigit_toNat (u v : Digit) (c : Bool) : (sumDigit u v c).toNat = (u.toNat + v.toNat + c.toNat) % 16 := by
  simp [sumDigit, exactSum]

/-- The carry says that the exact sum does not fit a digit. -/
theorem sumCarry_iff (u v : Digit) (c : Bool) : sumCarry u v c = true ↔ 16 ≤ u.toNat + v.toNat + c.toNat :=
  decide_eq_true_iff

/-- The one's complement of a digit. -/
theorem compDigit_toNat (u : Digit) : (~~~u).toNat = 15 - u.toNat := by
  simp [BitVec.toNat_not]

/-! ### Bits of a digit -/

/-- Resetting a bit leaves the other bits alone. -/
theorem resetBit_getLsbD (v : Digit) {n k : Nat} (hn : n < 4) (hk : k < 4) :
    (resetBit v n).getLsbD k = if k = n then false else v.getLsbD k := by
  have : ∀ v : Digit, ∀ n < 4, ∀ k < 4, (resetBit v n).getLsbD k = if k = n then false else v.getLsbD k := by decide
  exact this v n hn k hk

/-- Setting a bit leaves the other bits alone. -/
theorem setBit_getLsbD (v : Digit) {n k : Nat} (hn : n < 4) (hk : k < 4) :
    (setBit v n).getLsbD k = if k = n then true else v.getLsbD k := by
  have : ∀ v : Digit, ∀ n < 4, ∀ k < 4, (setBit v n).getLsbD k = if k = n then true else v.getLsbD k := by decide
  exact this v n hn k hk

/-! ### Halves of a byte -/

/-- The high half of a byte as a digit. -/
theorem hiDigit_eq (v : Byte) : hiDigit v = BitVec.ofNat 4 (v.toNat / 16) := by
  apply BitVec.eq_of_toNat_eq
  simp [hiDigit, Nat.shiftRight_eq_div_pow]

/-- The low half of a byte. -/
theorem loDigit_toNat (v : Byte) : (loDigit v).toNat = v.toNat % 16 := by
  simp [loDigit]

/-- Two digits joined. -/
theorem joinDigits_toNat (hi lo : Digit) : (joinDigits hi lo).toNat = hi.toNat * 16 + lo.toNat := by
  revert hi lo
  decide

/-! ### Addresses -/

/-- The RAM address as the fields of B (R73). -/
theorem State.ramAddr_eq (s : State) : s.ramAddr = s.br.toNat * 16 + s.bd.toNat := by
  unfold State.ramAddr State.br State.bd
  generalize s.regB = v
  revert v
  decide

/-- Two bit strings joined, as a number. -/
theorem append_toNat {m n : Nat} (u : BitVec m) (v : BitVec n) : (u ++ v).toNat = u.toNat * 2 ^ n + v.toNat := by
  rw [BitVec.toNat_append, Nat.shiftLeft_eq, Nat.mul_comm, ← Nat.two_pow_add_eq_or_of_lt v.isLt]

/-- The ROM table address as a number (R160, R186). -/
theorem State.tableAddr_eq (s : State) :
    s.tableAddr = BitVec.ofNat 11 (s.pc.toNat / 256 * 256 + s.a.toNat * 16 + s.m.toNat) := by
  have ha := s.a.isLt
  have hm := s.m.isLt
  have hp := s.pc.isLt
  apply BitVec.eq_of_toNat_eq
  simp only [State.tableAddr, append_toNat, BitVec.extractLsb'_toNat, BitVec.toNat_ofNat, Nat.shiftRight_eq_div_pow]
  omega

/-- `in23` as a range of addresses (R106). -/
theorem inPages23_iff (i : RomAddr) : inPages23 i = true ↔ 0x080 ≤ i.toNat ∧ i.toNat ≤ 0x0FF := by
  have := i.isLt
  simp only [inPages23, beq_iff_eq, ← BitVec.toNat_inj, BitVec.extractLsb'_toNat, Nat.shiftRight_eq_div_pow,
    BitVec.toNat_ofNat]
  omega

/-- The register r.d exists on 2K parts, and on 1K parts for r from 0 to 3 (R103). -/
theorem State.hasRegister_iff (s : State) (r : BitVec 3) :
    s.hasRegister r = true ↔ s.cfg.part.is2K = true ∨ r.toNat < 4 := by
  simp [State.hasRegister]

/-- The IN pins exist on the 28-pin parts that are not bonded for 24 or 20 pins only (R6). -/
theorem State.hasIn_iff (s : State) : s.hasIn = true ↔
    s.cfg.part.pins = 28 ∧ s.cfg.options.bonding ≠ .pins24 ∧ s.cfg.options.bonding ≠ .pins20
      ∧ s.cfg.options.bonding ≠ .pins24And20 := by
  have h : ∀ b : Bonding, b.has28 = true ↔ b ≠ .pins24 ∧ b ≠ .pins20 ∧ b ≠ .pins24And20 := by
    intro b
    cases b <;> decide
  simp [State.hasIn, Config.hasIn, Part.hasIn, h]

/-- A reduced address, as a number (R71). -/
theorem State.reduceAddr_toNat (s : State) (i : RomAddr) : (s.reduceAddr i).toNat = s.romIndex i := by
  have h : s.romIndex i ≤ i.toNat := Nat.mod_le _ _
  have := i.isLt
  rw [State.reduceAddr, BitVec.toNat_ofNat]
  omega

/-- The page context as a range of addresses in the ROM of the part (R71, R106). -/
theorem State.pageContext_iff (s : State) :
    s.pageContext = true ↔ 0x080 ≤ s.romIndex (s.pc + 1#11) ∧ s.romIndex (s.pc + 1#11) ≤ 0x0FF := by
  rw [State.pageContext, inPages23_iff, State.reduceAddr_toNat]

/-! ### Pulses -/

/-- A running machine registers every pulse. -/
theorem State.registersPulse_running {s : State} (h : s.isStopped = false) : s.registersPulse = true := by
  simp [State.registersPulse, h]

/-- A pulse on a running machine takes no free value. -/
theorem State.takePulse_running {s : State} (h : s.isStopped = false) : s.takePulse = s := by
  simp [State.takePulse, h]

end Sys2Proof.Machine
end

