-- ==== Sys2Proof/Laws/Outputs.lean ====
section
/-! SUPPORT. What is known of the I/O lines of each package, and what a pin shows. -/

namespace Sys2Proof.Machine

/-! ### The I/O lines -/

theorem commonLines_nodup : commonLines.Nodup := by decide

/-- The 20-pin package has only lines that the 24-pin package has. -/
theorem lines20_sublist : lines20.Sublist commonLines :=
  (List.eraseIdx_sublist _ _).trans ((List.eraseIdx_sublist _ _).trans
    ((List.eraseIdx_sublist _ _).trans (List.eraseIdx_sublist _ _)))

/-- R2: the 20-pin package has 15 I/O lines. -/
theorem lines20_length : lines20.length = 15 := by
  have h1 := Config.unbondedLines.1.isLt
  have h2 := Config.unbondedLines.2.1.isLt
  have h3 := Config.unbondedLines.2.2.1.isLt
  have h4 := Config.unbondedLines.2.2.2.isLt
  have h : commonLines.length = 19 := rfl
  simp only [lines20, List.length_eraseIdx, h]
  repeat' split
  all_goals omega

/-- R230: the 20-pin package lacks a G line. -/
theorem lines20_lacks_g : ∃ k, .g k ∉ lines20 := by
  have h : ∀ k : Fin 4, .g k ∉ commonLines.eraseIdx k := by decide
  refine ⟨Config.unbondedLines.1, fun hk => h Config.unbondedLines.1 ?_⟩
  exact (((List.eraseIdx_sublist _ _).trans ((List.eraseIdx_sublist _ _).trans (List.eraseIdx_sublist _ _))).subset hk)

/-- What the lines of a chip can be: those of its package. -/
theorem ioLines_cases (c : Config) :
    (c.hasIn = true ∧ ioLines c = inputLines ++ commonLines)
    ∨ (c.hasIn = false ∧ c.is20Pin = true ∧ ioLines c = lines20)
    ∨ (c.hasIn = false ∧ c.is20Pin = false ∧ ioLines c = commonLines) := by
  cases h1 : c.hasIn <;> cases h2 : c.is20Pin <;> simp [ioLines, h1, h2]

/-- A 20-pin package, by the part number and option 33. -/
theorem is20Pin_iff (c : Config) :
    c.is20Pin = true ↔ c.part.pins = 20 ∨ c.options.bonding = .pins20 := by
  simp [Config.is20Pin]

/-! ### What a pin shows -/

/-- A line that the package has shows what drives it. -/
theorem State.pin_of_mem {s : State} {line : IoLine} (h : line ∈ ioLines s.cfg) (readStrobe : Bool) :
    s.pin readStrobe line = s.drive readStrobe line := if_pos h

theorem LineOutput.ofOption_ne_absent (v : Option Bool) : LineOutput.ofOption v ≠ .absent := by
  cases v <;> nofun

/-- Every line that there is shows something. -/
theorem State.drive_ne_absent (s : State) (readStrobe : Bool) (line : IoLine) : s.drive readStrobe line ≠ .absent := by
  cases line
  case d | l => exact LineOutput.ofOption_ne_absent _
  case sk =>
    show s.skDrive ≠ .absent
    unfold State.skDrive
    (repeat' split) <;> nofun
  all_goals nofun

end Sys2Proof.Machine
end

