-- ==== Sys2Proof/Laws/Sequence.lean ====
section
/-! SUPPORT. What one step can do, once: the inversion lemmas of the step, of the machine's own step and of running an
instruction; the step of a running machine. -/

namespace Sys2Proof.Machine

variable {s t : State}

/-- A step delivers the next event, or is a step of the machine with no event due before it. -/
theorem step_cases (h : step s = .next t) :
    (∃ e rest, e ≠ .quiet ∧ s.events = e :: rest ∧ t = State.deliver { s with events := rest } e)
      ∨ (∃ rest, (s.events = [] ∧ rest = [] ∨ s.events = .quiet :: rest)
          ∧ machineStep { s with events := rest } = .next t) := by
  unfold step stepOnce at h
  split at h
  · rename_i he
    refine .inr ⟨[], .inl ⟨he, rfl⟩, ?_⟩
    have : { s with events := [] } = s := by rw [← he]
    rw [this]
    exact h
  · rename_i rest he
    exact .inr ⟨rest, .inr he, h⟩
  · rename_i e rest hq he
    refine .inl ⟨e, rest, fun h' => hq h', he, ?_⟩
    injection h with h
    exact h.symm

/-- The machine's own step: it stays in HALT, counts in IDLE, takes the interrupt, or runs the fetched instruction. -/
theorem machineStep_cases (h : machineStep s = .next t) :
    (s.isHalted = true ∧ t = s)
      ∨ (s.isHalted = false ∧ s.idle = true ∧ t = s.timeBase)
      ∨ (s.isHalted = false ∧ s.idle = false ∧ s.acknowledges = true ∧ t = s.interrupt)
      ∨ (s.isHalted = false ∧ s.idle = false ∧ s.acknowledges = false
          ∧ ∃ i, s.fetch = .ok i ∧ runInstr i (s.advance i) = .next t) := by
  unfold machineStep at h
  split at h
  · rename_i hh
    injection h with h
    exact .inl ⟨hh, h.symm⟩
  · rename_i hh
    split at h
    · rename_i hi
      injection h with h
      exact .inr (.inl ⟨by simpa using hh, hi, h.symm⟩)
    · rename_i hi
      split at h
      · rename_i ha
        injection h with h
        exact .inr (.inr (.inl ⟨by simpa using hh, by simpa using hi, ha, h.symm⟩))
      · rename_i ha
        split at h
        · rename_i i hf
          exact .inr (.inr (.inr ⟨by simpa using hh, by simpa using hi, by simpa using ha, i, hf, h⟩))
        · cases h

/-- Executing an instruction: ticks, its effect, and ticks (R117, `TICK_PHASE`). -/
theorem executeInstr_cases {i : Instr} (h : executeInstr i s = .next t) :
    ∃ u, exec i { State.ticks (s.pausesTimeBase i) (s.ticksBefore i) s with lbiChain := i.isLbi } = .next u
      ∧ t = State.ticks (s.pausesTimeBase i) (i.cycles - s.ticksBefore i) u := by
  unfold executeInstr at h
  split at h
  · rename_i u hu
    injection h with h
    exact ⟨u, hu, h.symm⟩
  · cases h
  · cases h

/-- In the spec's default phase the effect comes first and all ticks after it (R117, U16). -/
theorem executeInstr_default {i : Instr} (h : s.cfg.params.tickPhase = {}) :
    executeInstr i s = match exec i { s with lbiChain := i.isLbi } with
      | .next u => .next (State.ticks i.isCamt i.cycles u)
      | .fault f => .fault f
      | .refused r => .refused r := by
  have h1 : s.ticksBefore i = 0 := by simp [State.ticksBefore, h]
  have h2 : s.pausesTimeBase i = i.isCamt := by simp [State.pausesTimeBase, h]
  rw [executeInstr, h1, h2]
  rfl

/-- Running an instruction: it is skipped, passed over in an LBI chain, or executed and then ticked (R117). -/
theorem runInstr_cases {i : Instr} (h : runInstr i s = .next t) :
    (s.skip = true ∧ t = State.ticks false i.length { s with skip := false, lbiChain := false })
      ∨ (s.skip = false ∧ s.lbiChain = true ∧ i.isLbi = true ∧ t = State.ticks false i.length s)
      ∨ (s.skip = false ∧ (s.lbiChain = false ∨ i.isLbi = false)
          ∧ ∃ u, exec i { State.ticks (s.pausesTimeBase i) (s.ticksBefore i) s with lbiChain := i.isLbi } = .next u
            ∧ t = State.ticks (s.pausesTimeBase i) (i.cycles - s.ticksBefore i) u) := by
  unfold runInstr at h
  split at h
  · rename_i hs
    injection h with h
    exact .inl ⟨hs, h.symm⟩
  · rename_i hs
    split at h
    · rename_i hc
      injection h with h
      rw [Bool.and_eq_true] at hc
      exact .inr (.inl ⟨by simpa using hs, hc.1, hc.2, h.symm⟩)
    · rename_i hc
      obtain ⟨u, hu, ht⟩ := executeInstr_cases h
      refine .inr (.inr ⟨by simpa using hs, ?_, u, hu, ht⟩)
      cases h1 : s.lbiChain
      · exact .inl rfl
      · exact .inr (by simpa [h1] using hc)

/-- The step of a running machine runs the instruction it fetches. -/
theorem step_of_running (h : s.Running) {i : Instr} (hf : s.fetch = .ok i) : step s = runInstr i (s.advance i) := by
  obtain ⟨he, hh, hi, ha⟩ := h
  simp [step, stepOnce, he, machineStep, hh, hi, ha, hf]

/-- Only the bytes of an enabling LEI decode to one (R213). -/
theorem isEnablingLei_of_decode {in23 : Bool} {b1 b2 : Byte} {rest : List Byte} {y : Digit}
    (h : decode in23 [b1, b2] = .ok (.lei y, rest)) (hy : y.getLsbD 1 = true) : isEnablingLei b1 b2 = true := by
  have one : ∀ (p : Bool) (b : Byte), (match decodeOne p b with | .lei _ => false | _ => true) = true := by decide
  have after : ∀ b : Byte, (match decodeAfter33 b with
      | .ok (.lei y) => !y.getLsbD 1 || isEnablingLei 0x33#8 b
      | _ => true) = true := by decide
  rw [decode] at h
  split at h
  · have h2 : decodeTwo b1 b2 = .ok (.lei y) := by
      cases hd : decodeTwo b1 b2 with
      | ok i => simp only [hd, Except.ok.injEq, Prod.mk.injEq] at h; rw [h.1]
      | error e => simp [hd] at h
    unfold decodeTwo at h2
    split at h2
    · rename_i h33
      have h3 := after b2
      rw [h2] at h3
      rw [eq_of_beq h33]
      simpa only [hy, Bool.not_true, Bool.false_or] using h3
    · split at h2 <;> split at h2 <;> cases h2
  · simp only [Except.ok.injEq, Prod.mk.injEq] at h
    have h1 := one in23 b1
    rw [h.1] at h1
    cases h1

/-- The test of the image misses no program that can set EN[1]: wherever an enabling LEI is fetched, it says so (R305). -/
theorem imageEnablesInterrupt_of_fetch {y : Digit} (h : s.fetch = .ok (.lei y)) (hy : y.getLsbD 1 = true) :
    imageEnablesInterrupt s.romRead = true := by
  have hd : ∃ rest, decode s.pageContext [s.romRead s.pc, s.romRead (s.pc + 1#11)] = .ok (.lei y, rest) := by
    unfold State.fetch State.fetchBytes at h
    split at h
    · rename_i i rest hd
      injection h with h
      exact ⟨rest, by rw [hd, h]⟩
    · cases h
  obtain ⟨rest, hd⟩ := hd
  refine List.any_eq_true.2 ⟨s.pc.toNat, List.mem_range.2 s.pc.isLt, ?_⟩
  have h1 : BitVec.ofNat 11 s.pc.toNat = s.pc := by simp
  have h2 : BitVec.ofNat 11 (s.pc.toNat + 1) = s.pc + 1#11 := by
    apply BitVec.eq_of_toNat_eq
    simp
  rw [h1, h2]
  exact isEnablingLei_of_decode hd hy

/-- `State.run` is the host's run of the machine. -/
theorem run_eq_core (k : Nat) (u : State) : State.run k u = core.run k u := by
  induction k generalizing u with
  | zero => rfl
  | succ k ih =>
    have hs : core.step u = step u := rfl
    simp only [State.run, Host.Core.run, hs]
    cases step u with
    | next v => exact ih v
    | fault f => rfl
    | refused r => rfl

/-- One step more at the end of a run. -/
theorem run_snoc {k : Nat} {u v : State} (h : State.run k u = .next v) : State.run (k + 1) u = step v := by
  induction k generalizing u with
  | zero =>
    cases h
    simp only [State.run]
    cases step v <;> rfl
  | succ k ih =>
    rw [State.run] at h ⊢
    cases hs : step u with
    | next w => rw [hs] at h; exact ih h
    | fault f => rw [hs] at h; cases h
    | refused r => rw [hs] at h; cases h

end Sys2Proof.Machine
end

