-- ==== Sys2Proof/Laws/PerInstr.lean ====
section
/-! SUPPORT. Facts proved per instruction: the number of bytes of its encoding. -/

namespace Sys2Proof.Laws.EncodedLength

/-- The encoding has as many bytes as the length that the fetch advances PC by, and its first byte says so (R100). -/
def Statement (i : Instr) : Prop :=
  (encode i).length = i.length ∧ (i.wf = true → isTwoByte ((encode i).headD 0#8) = (i.length == 2))

theorem asc : Statement (.asc) := ⟨rfl, fun _ => rfl⟩
theorem add : Statement (.add) := ⟨rfl, fun _ => rfl⟩
theorem adt : Statement (.adt) := ⟨rfl, fun _ => rfl⟩
theorem aisc (y : Digit) : Statement (.aisc y) := ⟨rfl, by revert y; decide⟩
theorem casc : Statement (.casc) := ⟨rfl, fun _ => rfl⟩
theorem clra : Statement (.clra) := ⟨rfl, fun _ => rfl⟩
theorem comp : Statement (.comp) := ⟨rfl, fun _ => rfl⟩
theorem nop : Statement (.nop) := ⟨rfl, fun _ => rfl⟩
theorem rc : Statement (.rc) := ⟨rfl, fun _ => rfl⟩
theorem sc : Statement (.sc) := ⟨rfl, fun _ => rfl⟩
theorem xor : Statement (.xor) := ⟨rfl, fun _ => rfl⟩
theorem jid : Statement (.jid) := ⟨rfl, fun _ => rfl⟩
theorem jmp (a : RomAddr) : Statement (.jmp a) := ⟨rfl, fun _ => by
  show isTwoByte (_ ++ a.extractLsb' 8 3) = true
  generalize a.extractLsb' 8 3 = h
  revert h
  decide⟩
theorem jpPages23 (a : BitVec 7) : Statement (.jpPages23 a) := ⟨rfl, by revert a; decide⟩
theorem jpPage (a : BitVec 6) : Statement (.jpPage a) := ⟨rfl, by revert a; decide⟩
theorem jsrp (a : BitVec 6) : Statement (.jsrp a) := ⟨rfl, by revert a; decide⟩
theorem jsr (a : RomAddr) : Statement (.jsr a) := ⟨rfl, fun _ => by
  show isTwoByte (_ ++ a.extractLsb' 8 3) = true
  generalize a.extractLsb' 8 3 = h
  revert h
  decide⟩
theorem ret : Statement (.ret) := ⟨rfl, fun _ => rfl⟩
theorem retsk : Statement (.retsk) := ⟨rfl, fun _ => rfl⟩
theorem halt : Statement (.halt) := ⟨rfl, fun _ => rfl⟩
theorem it : Statement (.it) := ⟨rfl, fun _ => rfl⟩
theorem camt : Statement (.camt) := ⟨rfl, fun _ => rfl⟩
theorem ctma : Statement (.ctma) := ⟨rfl, fun _ => rfl⟩
theorem camq : Statement (.camq) := ⟨rfl, fun _ => rfl⟩
theorem cqma : Statement (.cqma) := ⟨rfl, fun _ => rfl⟩
theorem ld (r : BitVec 2) : Statement (.ld r) := ⟨rfl, by revert r; decide⟩
theorem ldd (r : BitVec 3) (d : Digit) : Statement (.ldd r d) := ⟨rfl, fun _ => rfl⟩
theorem lqid : Statement (.lqid) := ⟨rfl, fun _ => rfl⟩
theorem rmb0 : Statement (.rmb0) := ⟨rfl, fun _ => rfl⟩
theorem rmb1 : Statement (.rmb1) := ⟨rfl, fun _ => rfl⟩
theorem rmb2 : Statement (.rmb2) := ⟨rfl, fun _ => rfl⟩
theorem rmb3 : Statement (.rmb3) := ⟨rfl, fun _ => rfl⟩
theorem smb0 : Statement (.smb0) := ⟨rfl, fun _ => rfl⟩
theorem smb1 : Statement (.smb1) := ⟨rfl, fun _ => rfl⟩
theorem smb2 : Statement (.smb2) := ⟨rfl, fun _ => rfl⟩
theorem smb3 : Statement (.smb3) := ⟨rfl, fun _ => rfl⟩
theorem stii (y : Digit) : Statement (.stii y) := ⟨rfl, by revert y; decide⟩
theorem x (r : BitVec 2) : Statement (.x r) := ⟨rfl, by revert r; decide⟩
theorem xad (r : BitVec 3) (d : Digit) : Statement (.xad r d) := ⟨rfl, fun _ => rfl⟩
theorem xds (r : BitVec 2) : Statement (.xds r) := ⟨rfl, by revert r; decide⟩
theorem xis (r : BitVec 2) : Statement (.xis r) := ⟨rfl, by revert r; decide⟩
theorem cab : Statement (.cab) := ⟨rfl, fun _ => rfl⟩
theorem cba : Statement (.cba) := ⟨rfl, fun _ => rfl⟩
theorem lbiShort (r : BitVec 2) (d : Digit) : Statement (.lbiShort r d) := ⟨rfl, by revert r d; decide⟩
theorem lbiLong (r : BitVec 3) (d : Digit) : Statement (.lbiLong r d) := ⟨rfl, fun _ => rfl⟩
theorem lei (y : Digit) : Statement (.lei y) := ⟨rfl, fun _ => rfl⟩
theorem xabr : Statement (.xabr) := ⟨rfl, fun _ => rfl⟩
theorem skc : Statement (.skc) := ⟨rfl, fun _ => rfl⟩
theorem ske : Statement (.ske) := ⟨rfl, fun _ => rfl⟩
theorem skgz : Statement (.skgz) := ⟨rfl, fun _ => rfl⟩
theorem skgbz0 : Statement (.skgbz0) := ⟨rfl, fun _ => rfl⟩
theorem skgbz1 : Statement (.skgbz1) := ⟨rfl, fun _ => rfl⟩
theorem skgbz2 : Statement (.skgbz2) := ⟨rfl, fun _ => rfl⟩
theorem skgbz3 : Statement (.skgbz3) := ⟨rfl, fun _ => rfl⟩
theorem skmbz0 : Statement (.skmbz0) := ⟨rfl, fun _ => rfl⟩
theorem skmbz1 : Statement (.skmbz1) := ⟨rfl, fun _ => rfl⟩
theorem skmbz2 : Statement (.skmbz2) := ⟨rfl, fun _ => rfl⟩
theorem skmbz3 : Statement (.skmbz3) := ⟨rfl, fun _ => rfl⟩
theorem skt : Statement (.skt) := ⟨rfl, fun _ => rfl⟩
theorem ing : Statement (.ing) := ⟨rfl, fun _ => rfl⟩
theorem inin : Statement (.inin) := ⟨rfl, fun _ => rfl⟩
theorem inil : Statement (.inil) := ⟨rfl, fun _ => rfl⟩
theorem inl : Statement (.inl) := ⟨rfl, fun _ => rfl⟩
theorem obd : Statement (.obd) := ⟨rfl, fun _ => rfl⟩
theorem ogi (y : Digit) : Statement (.ogi y) := ⟨rfl, fun _ => rfl⟩
theorem omg : Statement (.omg) := ⟨rfl, fun _ => rfl⟩
theorem xas : Statement (.xas) := ⟨rfl, fun _ => rfl⟩

end Sys2Proof.Laws.EncodedLength
end

