-- ==== Sys2Proof/Tests/Slice0.lean ====
section
/-! SUPPORT. Tests. Expected results are the vectors V-… of spec/95_test_vectors.md and the encodings of
spec/30_encoding.md. The last part meets the hypotheses of every statement of Certificates/Slice0/Obligations.lean. -/

namespace Sys2Proof.Tests

open Sys2Proof Sys2Proof.Machine

/-! ### Small states -/

/-- A 2K part with every option 0 and every register given. -/
def base : State :=
  { State.reset with
    cfg := { part := .etc9444, options := {}, params := ⟨false, false, false, 0, {}⟩ }
    q := 0#8, sio := 0#4, sa := 0x111#11, sb := 0x222#11, sc := 0x333#11, tov := false }

/-- The same on a 1K part with 28 pins. -/
def small : State := { base with cfg := { base.cfg with part := .etc9420 } }

/-- The same on a part without IN pins. -/
def noIn : State := { base with cfg := { base.cfg with part := .etc9445 } }

/-- The state with one option record changed. -/
def withOptions (s : State) (o : MaskOptions) : State := { s with cfg := { s.cfg with options := o } }

/-- The state with one parameter record changed. -/
def withParams (s : State) (p : OpenParams) : State := { s with cfg := { s.cfg with params := p } }

/-- The state with bytes in ROM from PC on. -/
def load (s : State) (bytes : List Byte) : State := s.programBytes s.pc bytes

/-- One sample of the pins. -/
def pins (inp g : Digit) (l : Byte) (si cko d0 : Bool) : Pins := ⟨inp, g, l, si, cko, d0⟩

/-- One step on the state with the bytes at PC answers a next state with the property. -/
def stepIs (s : State) (bytes : List Byte) (p : State → Bool) : Bool :=
  match step (load s bytes) with
  | .next t => p t
  | _ => false

/-- One step on the state with the bytes at PC faults so. -/
def stepFaults (s : State) (bytes : List Byte) (f : Fault) : Bool :=
  match step (load s bytes) with
  | .fault g => f == g
  | _ => false

/-- RAM(r,d) as read. -/
def digit (t : State) (r d : Nat) : Digit := t.readDigit (r * 16 + d)

/-! ### WellFormed refuses -/

theorem test_wf_aisc : Instr.wf (.aisc 0#4) = false ∧ Instr.wf (.aisc 1#4) = true := by decide
theorem test_wf_jpPages23 : Instr.wf (.jpPages23 0x3F#7) = false ∧ Instr.wf (.jpPages23 0x7F#7) = false
    ∧ Instr.wf (.jpPages23 0x7E#7) = true := by decide
theorem test_wf_jpPage : Instr.wf (.jpPage 0x3F#6) = false ∧ Instr.wf (.jpPage 0x3E#6) = true := by decide
theorem test_wf_jsrp : Instr.wf (.jsrp 0x3F#6) = false ∧ Instr.wf (.jsrp 0#6) = true := by decide
theorem test_wf_lbiShort : Instr.wf (.lbiShort 0#2 1#4) = false ∧ Instr.wf (.lbiShort 0#2 8#4) = false
    ∧ Instr.wf (.lbiShort 0#2 9#4) = true ∧ Instr.wf (.lbiShort 0#2 0#4) = true := by decide
theorem test_fitsPage : Instr.fitsPage false (.jpPages23 0#7) = false ∧ Instr.fitsPage true (.jpPage 0#6) = false
    ∧ Instr.fitsPage true (.jsrp 0#6) = false ∧ Instr.fitsPage false (.jsrp 0#6) = true := by decide
theorem test_fitsPart : Instr.fitsPart .etc9420 (.ldd 4#3 0#4) = false ∧ Instr.fitsPart .etc9420 (.xad 4#3 0#4) = false
    ∧ Instr.fitsPart .etc9420 (.lbiLong 4#3 0#4) = false ∧ Instr.fitsPart .etc9444 (.ldd 4#3 0#4) = true
    ∧ Instr.fitsPart .etc9420 (.ldd 3#3 0#4) = true := by decide
/-- U13, one violation of each kind. -/
theorem test_config_illegal :
    Config.legal { base.cfg with options := { dualClock := .d0RcOscillator } } = false
    ∧ Config.legal { base.cfg with options := { microbus := true, timer := .eventCounter } } = false
    ∧ Config.legal { noIn.cfg with options := { microbus := true } } = false
    ∧ Config.legal { base.cfg with options := { microbus := true, bonding := .pins24 } } = false
    ∧ Config.legal { small.cfg with options := { bonding := .pins24And28, in0Load := .highZ } } = false
    ∧ Config.legal { base.cfg with options := { bonding := .pins24And28 } } = false
    ∧ Config.legal { base.cfg with options := { bonding := .pins20, g0Driver := .openDrain } } = false
    ∧ Config.legal { base.cfg with options := { bonding := .pins28And20, dualClock := .d0ExternalClock } } = false := by
  decide
theorem test_config_legal : base.cfg.legal = true
    ∧ Config.legal { base.cfg with options := { dualClock := .d0RcOscillator, d0Driver := .openDrain } } = true
    ∧ Config.legal { small.cfg with options := { bonding := .pins24And28 } } = true := by decide
/-- U5. -/
theorem test_romImage : romImageWellFormed (fun _ => 0x44#8) = false ∧ romImageWellFormed (fun _ => 0x00#8) = true :=
  ⟨by decide, by simp [romImageWellFormed, imageEnablesInterrupt, isEnablingLei]⟩
/-- R305: an image with LEI 2 at 001 needs the NOP at 0FF. -/
theorem test_romImage_lei (w : Byte) :
    romImageWellFormed (fun i => if i = 1#11 then 0x33#8 else if i = 2#11 then 0x62#8 else if i = 0x0FF#11 then w else 0x00#8)
      = (w == 0x44#8) := by
  have h : imageEnablesInterrupt (fun i => if i = 1#11 then 0x33#8 else if i = 2#11 then 0x62#8
      else if i = 0x0FF#11 then w else 0x00#8) = true :=
    List.any_eq_true.2 ⟨1, List.mem_range.2 (by decide), by simp [isEnablingLei]⟩
  simp [romImageWellFormed, h]
/-- LEI 13 sets EN[1] to 0, LEI 2 to 1, and 33 52 is no LEI. -/
theorem test_isEnablingLei : isEnablingLei 0x33#8 0x6D#8 = false ∧ isEnablingLei 0x33#8 0x62#8 = true
    ∧ isEnablingLei 0x33#8 0x52#8 = false := by decide

/-! ### Decoding: one word of every constructor, written out from Table 3 (R108 to R110) -/

/-- The bytes decode to the instruction, in the page context given, and nothing is left over. -/
def reads (in23 : Bool) (bytes : List Byte) (i : Instr) : Bool := decide (decode in23 bytes = .ok (i, []))

theorem test_decode_arithmetic :
    reads false [0b00110000#8] .asc && reads false [0b00110001#8] .add && reads false [0b01001010#8] .adt
    && reads false [0b01010110#8] (.aisc 6#4) && reads false [0b00010000#8] .casc && reads false [0b00000000#8] .clra
    && reads false [0b01000000#8] .comp && reads false [0b01000100#8] .nop && reads false [0b00110010#8] .rc
    && reads false [0b00100010#8] .sc && reads false [0b00000010#8] .xor = true := by decide
theorem test_decode_transfer :
    reads false [0b11111111#8] .jid && reads true [0b11111111#8] .jid
    && reads false [0b01100001#8, 0b00100011#8] (.jmp 0x123#11) && reads true [0b11000101#8] (.jpPages23 0x45#7)
    && reads true [0b10000101#8] (.jpPages23 0x05#7) && reads false [0b11000101#8] (.jpPage 0x05#6)
    && reads false [0b10000101#8] (.jsrp 0x05#6) && reads false [0b01101010#8, 0b01000101#8] (.jsr 0x245#11)
    && reads false [0b01001000#8] .ret && reads false [0b01001001#8] .retsk
    && reads false [0b00110011#8, 0b00111000#8] .halt && reads false [0b00110011#8, 0b00111001#8] .it = true := by decide
theorem test_decode_memory :
    reads false [0b00110011#8, 0b00111111#8] .camt && reads false [0b00110011#8, 0b00101111#8] .ctma
    && reads false [0b00110011#8, 0b00111100#8] .camq && reads false [0b00110011#8, 0b00101100#8] .cqma
    && reads false [0b00010101#8] (.ld 1#2) && reads false [0b00100011#8, 0b01011100#8] (.ldd 5#3 12#4)
    && reads false [0b10111111#8] .lqid && reads true [0b10111111#8] .lqid
    && reads false [0b01110101#8] (.stii 5#4) && reads false [0b00110110#8] (.x 3#2)
    && reads false [0b00100011#8, 0b10111111#8] (.xad 3#3 15#4) && reads false [0b00010111#8] (.xds 1#2)
    && reads false [0b00010100#8] (.xis 1#2) = true := by decide
theorem test_decode_bits :
    reads false [0b01001100#8] .rmb0 && reads false [0b01000101#8] .rmb1 && reads false [0b01000010#8] .rmb2
    && reads false [0b01000011#8] .rmb3 && reads false [0b01001101#8] .smb0 && reads false [0b01000111#8] .smb1
    && reads false [0b01000110#8] .smb2 && reads false [0b01001011#8] .smb3 = true := by decide
theorem test_decode_register :
    reads false [0b01010000#8] .cab && reads false [0b01001110#8] .cba && reads false [0b00001000#8] (.lbiShort 0#2 9#4)
    && reads false [0b00011110#8] (.lbiShort 1#2 15#4) && reads false [0b00001111#8] (.lbiShort 0#2 0#4)
    && reads false [0b00110011#8, 0b10100101#8] (.lbiLong 2#3 5#4) && reads false [0b00110011#8, 0b01100010#8] (.lei 2#4)
    && reads false [0b00010010#8] .xabr = true := by decide
theorem test_decode_test :
    reads false [0b00100000#8] .skc && reads false [0b00100001#8] .ske && reads false [0b00110011#8, 0b00100001#8] .skgz
    && reads false [0b00110011#8, 0b00000001#8] .skgbz0 && reads false [0b00110011#8, 0b00010001#8] .skgbz1
    && reads false [0b00110011#8, 0b00000011#8] .skgbz2 && reads false [0b00110011#8, 0b00010011#8] .skgbz3
    && reads false [0b00000001#8] .skmbz0 && reads false [0b00010001#8] .skmbz1 && reads false [0b00000011#8] .skmbz2
    && reads false [0b00010011#8] .skmbz3 && reads false [0b01000001#8] .skt = true := by decide
theorem test_decode_io :
    reads false [0b00110011#8, 0b00101010#8] .ing && reads false [0b00110011#8, 0b00101000#8] .inin
    && reads false [0b00110011#8, 0b00101001#8] .inil && reads false [0b00110011#8, 0b00101110#8] .inl
    && reads false [0b00110011#8, 0b00111110#8] .obd && reads false [0b00110011#8, 0b01011001#8] (.ogi 9#4)
    && reads false [0b00110011#8, 0b00111010#8] .omg && reads false [0b01001111#8] .xas = true := by decide
/-- V-EN-7, V-EN-8, and a missing second byte. -/
theorem test_decode_refuses :
    decode false [0x33#8, 0x00#8] = .error (.undefinedSecondByte 0x00#8)
    ∧ decode false [0x33#8, 0x7F#8] = .error (.undefinedSecondByte 0x7F#8)
    ∧ decode true [0x33#8, 0x2B#8] = .error (.undefinedSecondByte 0x2B#8)
    ∧ decode false [0x23#8] = .error .endOfBytes ∧ decode false [] = .error .endOfBytes := by decide
/-- R116. -/
theorem test_choose :
    chooseLbi 3#3 9#4 = .lbiShort 3#2 9#4 ∧ chooseLbi 3#3 8#4 = .lbiLong 3#3 8#4 ∧ chooseLbi 4#3 9#4 = .lbiLong 4#3 9#4
    ∧ chooseJp 0x12B#11 0x105#11 = some (.jpPage 5#6) ∧ chooseJp 0x12B#11 0x13F#11 = none
    ∧ chooseJp 0x12B#11 0x145#11 = none ∧ chooseJp 0x080#11 0x0C5#11 = some (.jpPages23 0x45#7)
    ∧ chooseJp 0x080#11 0x0BF#11 = none ∧ chooseJsrp 0x100#11 0x085#11 = some (.jsrp 5#6)
    ∧ chooseJsrp 0x080#11 0x085#11 = none ∧ chooseJsrp 0x100#11 0x0BF#11 = none := by decide
theorem test_decodeTableWord : decodeTableWord 16 0x6123 = some (.jmp 0x123#11)
    ∧ decodeTableWord 8 0x30 = some .asc ∧ decodeTableWord 16 0x3300 = none := by decide

/-! ### Arithmetic (V-AR) -/

theorem test_asc : stepIs { base with a := 9#4, ram := [(0, 8#4)], c := true } [0x30#8]
    (fun t => t.a == 2#4 && t.c && t.skip && t.pc == 1#11) = true := by decide
theorem test_asc_noCarry : stepIs { base with a := 7#4, ram := [(0, 8#4)] } [0x30#8]
    (fun t => t.a == 15#4 && !t.c && !t.skip) = true := by decide
theorem test_add : stepIs { base with a := 9#4, ram := [(0, 9#4)], c := true } [0x31#8]
    (fun t => t.a == 2#4 && t.c && !t.skip) = true := by decide
theorem test_adt : stepIs { base with a := 15#4 } [0x4A#8] (fun t => t.a == 9#4 && !t.c && !t.skip) = true := by decide
theorem test_aisc : stepIs { base with a := 10#4 } [0x56#8] (fun t => t.a == 0#4 && t.skip && !t.c) = true := by decide
theorem test_aisc_noCarry : stepIs { base with a := 9#4 } [0x56#8] (fun t => t.a == 15#4 && !t.skip) = true := by decide
theorem test_casc : stepIs { base with a := 5#4, ram := [(0, 5#4)], c := true } [0x10#8]
    (fun t => t.a == 0#4 && t.c && t.skip) = true := by decide
theorem test_casc_borrow : stepIs { base with a := 9#4, ram := [(0, 3#4)], c := true } [0x10#8]
    (fun t => t.a == 10#4 && !t.c && !t.skip) = true := by decide
theorem test_clra : stepIs { base with a := 11#4 } [0x00#8] (fun t => t.a == 0#4) = true := by decide
theorem test_comp : stepIs { base with a := 0b1010#4 } [0x40#8] (fun t => t.a == 0b0101#4) = true := by decide
/-- V-TC-21: PC wraps. -/
theorem test_nop : stepIs { base with pc := 0x7FF#11 } [0x44#8] (fun t => t.pc == 0#11) = true := by decide
theorem test_rc : stepIs { base with c := true } [0x32#8] (fun t => !t.c && t.skl) = true := by decide
theorem test_sc : stepIs base [0x22#8] (fun t => t.c) = true := by decide
theorem test_xor : stepIs { base with a := 0b1100#4, ram := [(0, 0b1010#4)] } [0x02#8]
    (fun t => t.a == 0b0110#4 && digit t 0 0 == 0b1010#4) = true := by decide

/-! ### Transfer of control (V-TC) -/

/-- V-TC-10 and V-TC-9. -/
theorem test_jid :
    stepIs ({ base with pc := 0x234#11, a := 5#4, ram := [(0, 2#4)] }.programByte 0x252#11 0x9C#8) [0xFF#8]
      (fun t => t.pc == 0x29C#11 && t.tp == 2#2) = true
    ∧ stepIs ({ base with pc := 0x1FF#11, ram := [(0, 0#4)] }.programByte 0x200#11 0x37#8) [0xFF#8]
      (fun t => t.pc == 0x237#11) = true := by decide
/-- V-TC-12, and V-TC-22 on a 1K part. -/
theorem test_jmp : stepIs base [0x67#8, 0xFF#8] (fun t => t.pc == 0x7FF#11 && t.tp == 2#2) = true
    ∧ stepIs (small.programByte 0x123#11 0x44#8) [0x65#8, 0x23#8]
      (fun t => t.pc == 0x523#11 && t.romRead t.pc == 0x44#8) = true := by decide
/-- V-TC-2, V-TC-8, V-TC-5. -/
theorem test_jp_pages23 : stepIs { base with pc := 0x090#11 } [0xC5#8] (fun t => t.pc == 0x0C5#11) = true
    ∧ stepIs { base with pc := 0x0BF#11 } [0xC5#8] (fun t => t.pc == 0x0C5#11) = true
    ∧ stepIs { base with pc := 0x07F#11 } [0x85#8] (fun t => t.pc == 0x085#11 && t.sa == 0x111#11) = true := by decide
/-- V-TC-1, V-TC-3. -/
theorem test_jp_page : stepIs { base with pc := 0x12A#11 } [0xC5#8] (fun t => t.pc == 0x105#11) = true
    ∧ stepIs { base with pc := 0x13F#11 } [0xC5#8] (fun t => t.pc == 0x145#11) = true := by decide
/-- V-TC-4, V-TC-6. -/
theorem test_jsrp :
    stepIs { base with pc := 0x200#11 } [0x85#8]
      (fun t => t.pc == 0x085#11 && t.sa == 0x201#11 && t.sb == 0x111#11 && t.sc == 0x222#11) = true
    ∧ stepIs { base with pc := 0x0FF#11 } [0x85#8] (fun t => t.pc == 0x085#11 && t.sa == 0x100#11) = true := by decide
/-- V-TC-13, V-TC-14. -/
theorem test_jsr :
    stepIs { base with pc := 0x010#11 } [0x6A#8, 0x45#8]
      (fun t => t.pc == 0x245#11 && t.sa == 0x012#11 && t.sb == 0x111#11 && t.sc == 0x222#11) = true
    ∧ stepIs { base with pc := 0x7FF#11 } [0x6A#8, 0x45#8] (fun t => t.pc == 0x245#11 && t.sa == 0x001#11) = true := by
  decide
/-- V-TC-15, V-TC-16. -/
theorem test_ret :
    stepIs base [0x48#8]
      (fun t => t.pc == 0x111#11 && t.sa == 0x222#11 && t.sb == 0x333#11 && t.sc == 0x333#11 && !t.skip) = true
    ∧ stepIs { base with sskip := true } [0x48#8] (fun t => t.skip && !t.sskip) = true := by decide
/-- V-TC-18. -/
theorem test_retsk : stepIs { base with sskip := true } [0x49#8]
    (fun t => t.pc == 0x111#11 && t.skip && !t.sskip) = true := by decide
/-- V-TC-19, and U14. -/
theorem test_halt : stepIs { base with pc := 0x005#11 } [0x33#8, 0x38#8] (fun t => t.pc == 0x007#11 && t.isHalted) = true
    ∧ stepIs (withOptions { base with pinQueue := [pins 0 0 0 false false true] } { dualClock := .d0ExternalClock })
      [0x33#8, 0x38#8] (fun t => !t.isHalted) = true := by decide
/-- R168, and U6. -/
theorem test_it : stepIs base [0x33#8, 0x39#8] (fun t => t.idle && t.tp == 2#2) = true
    ∧ stepFaults (withOptions base { timer := .eventCounter }) [0x33#8, 0x39#8] .idleWithEventCounter = true := by
  decide

/-! ### Memory reference (V-MR) -/

/-- V-MR-1, V-MR-2. -/
theorem test_camt :
    stepIs { base with a := 15#4, ram := [(0, 14#4)], tp := 3#2 } [0x33#8, 0x3F#8]
      (fun t => t.t == 0xFE#8 && t.tp == 0#2 && !t.tov) = true
    ∧ stepIs { base with ram := [(0, 0#4)], t := 0x80#8 } [0x33#8, 0x3F#8] (fun t => t.t == 0x00#8 && t.tov) = true := by
  decide
/-- V-MR-3. -/
theorem test_ctma : stepIs { base with t := 0xA7#8, b := 0x10#7 } [0x33#8, 0x2F#8]
    (fun t => digit t 1 0 == 0xA#4 && t.a == 7#4) = true := by decide
theorem test_camq : stepIs { base with a := 3#4, ram := [(0, 12#4)] } [0x33#8, 0x3C#8] (fun t => t.q == 0x3C#8) = true := by
  decide
theorem test_cqma : stepIs { base with q := 0x3C#8 } [0x33#8, 0x2C#8]
    (fun t => digit t 0 0 == 3#4 && t.a == 12#4) = true := by decide
/-- V-MR-6, V-MR-7. -/
theorem test_ld : stepIs { base with b := 0x0E#7, ram := [(0x0E, 7#4)] } [0x15#8] (fun t => t.a == 7#4 && t.b == 0x1E#7) = true
    ∧ stepIs { base with b := 0x7A#7, ram := [(0x7A, 4#4)] } [0x35#8] (fun t => t.a == 4#4 && t.b == 0x4A#7) = true := by
  decide
/-- V-MR-8, V-MR-23. -/
theorem test_ldd : stepIs { base with ram := [(0x5C, 9#4)] } [0x23#8, 0x5C#8] (fun t => t.a == 9#4 && t.b == 0#7) = true
    ∧ stepFaults small [0x23#8, 0x5C#8] (.noSuchRamRegister 5#3) = true := by decide
/-- V-MR-9; with the saved skip restored (U9). -/
theorem test_lqid :
    stepIs ({ base with pc := 0x2FF#11, a := 15#4, ram := [(0, 15#4)] }.programByte 0x3FF#11 0x5A#8) [0xBF#8]
      (fun t => t.q == 0x5A#8 && t.pc == 0x300#11 && t.sa == 0x111#11 && t.sb == 0x222#11 && t.sc == 0x222#11
        && t.tp == 2#2) = true
    ∧ stepIs (withParams { base with sskip := true } ⟨false, true, false, 0, {}⟩) [0xBF#8] (fun t => t.skip && !t.sskip) = true := by
  decide
/-- V-MR-11, V-MR-12. -/
theorem test_rmb :
    stepIs { base with ram := [(0, 15#4)] } [0x4C#8] (fun t => digit t 0 0 == 0b1110#4) = true
    ∧ stepIs { base with ram := [(0, 15#4)] } [0x45#8] (fun t => digit t 0 0 == 0b1101#4) = true
    ∧ stepIs { base with ram := [(0, 15#4)] } [0x42#8] (fun t => digit t 0 0 == 0b1011#4) = true
    ∧ stepIs { base with ram := [(0, 15#4)] } [0x43#8] (fun t => digit t 0 0 == 0b0111#4) = true := by decide
/-- V-MR-13, V-MR-14. -/
theorem test_smb :
    stepIs { base with ram := [(0, 0#4)] } [0x4D#8] (fun t => digit t 0 0 == 0b0001#4) = true
    ∧ stepIs { base with ram := [(0, 0#4)] } [0x47#8] (fun t => digit t 0 0 == 0b0010#4) = true
    ∧ stepIs { base with ram := [(0, 0#4)] } [0x46#8] (fun t => digit t 0 0 == 0b0100#4) = true
    ∧ stepIs { base with ram := [(0, 0#4)] } [0x4B#8] (fun t => digit t 0 0 == 0b1000#4) = true := by decide
/-- V-MR-15, V-MR-16. -/
theorem test_stii : stepIs { base with b := 0x23#7 } [0x75#8] (fun t => digit t 2 3 == 5#4 && t.b == 0x24#7) = true
    ∧ stepIs { base with b := 0x3F#7 } [0x70#8] (fun t => digit t 3 15 == 0#4 && t.b == 0x30#7 && !t.skip) = true := by decide
/-- V-MR-17. -/
theorem test_x : stepIs { base with a := 4#4, b := 0x31#7, ram := [(0x31, 9#4)] } [0x36#8]
    (fun t => t.a == 9#4 && digit t 3 1 == 4#4 && t.b == 0x01#7) = true := by decide
/-- V-MR-18. -/
theorem test_xad : stepIs { base with a := 6#4, b := 0x12#7, ram := [(0x3F, 1#4)] } [0x23#8, 0xBF#8]
    (fun t => t.a == 1#4 && digit t 3 15 == 6#4 && t.b == 0x12#7) = true := by decide
/-- V-MR-19, V-MR-20. -/
theorem test_xds :
    stepIs { base with a := 2#4, b := 0x10#7, ram := [(0x10, 6#4)] } [0x17#8]
      (fun t => t.a == 6#4 && digit t 1 0 == 2#4 && t.b == 0x0F#7 && t.skip) = true
    ∧ stepIs { base with a := 2#4, b := 0x15#7, ram := [(0x15, 6#4)] } [0x07#8]
      (fun t => t.a == 6#4 && digit t 1 5 == 2#4 && t.b == 0x14#7 && !t.skip) = true := by decide
/-- V-MR-21, V-MR-22. -/
theorem test_xis :
    stepIs { base with a := 5#4, b := 0x1E#7, ram := [(0x1E, 8#4)] } [0x14#8]
      (fun t => t.a == 8#4 && digit t 1 14 == 5#4 && t.b == 0x0F#7 && !t.skip) = true
    ∧ stepIs { base with b := 0x2F#7, ram := [(0x2F, 12#4)] } [0x04#8]
      (fun t => t.a == 12#4 && digit t 2 15 == 0#4 && t.b == 0x20#7 && t.skip) = true := by decide

/-! ### Register reference (V-RR) -/

theorem test_cab : stepIs { base with a := 9#4, b := 0x23#7 } [0x50#8] (fun t => t.b == 0x29#7) = true := by decide
theorem test_cba : stepIs { base with b := 0x5C#7 } [0x4E#8] (fun t => t.a == 12#4) = true := by decide
/-- V-RR-3, V-RR-10. -/
theorem test_lbi_short : stepIs { base with b := 0x11#7 } [0x0F#8] (fun t => t.b == 0#7 && t.lbiChain) = true
    ∧ stepIs { base with b := 0x7A#7 } [0x2F#8] (fun t => t.b == 0x20#7) = true := by decide
/-- V-RR-8, V-RR-9, and the chain of V-RR-11. -/
theorem test_lbi_long : stepIs base [0x33#8, 0xF0#8] (fun t => t.b == 0x70#7 && t.lbiChain) = true
    ∧ stepIs base [0x33#8, 0x80#8] (fun t => t.b == 0x00#7) = true
    ∧ stepIs { base with lbiChain := true } [0x33#8, 0xF0#8] (fun t => t.b == 0#7 && t.lbiChain && t.pc == 2#11) = true := by
  decide
theorem test_lei : stepIs base [0x33#8, 0x6D#8] (fun t => t.en == 0b1101#4 && t.soDrive) = true := by decide
/-- V-RR-15, V-RR-16. -/
theorem test_xabr : stepIs { base with a := 0b1101#4, b := 0x2C#7 } [0x12#8] (fun t => t.a == 0b0010#4 && t.b == 0x5C#7) = true
    ∧ stepIs { small with a := 0b1110#4, b := 0x1C#7 } [0x12#8] (fun t => t.a == 0b0001#4 && t.b == 0x2C#7) = true := by
  decide

/-! ### Tests (V-TS) -/

theorem test_skc : stepIs { base with c := true } [0x20#8] (fun t => t.skip) = true
    ∧ stepIs base [0x20#8] (fun t => !t.skip) = true := by decide
theorem test_ske : stepIs { base with a := 7#4, ram := [(0, 7#4)] } [0x21#8] (fun t => t.skip) = true
    ∧ stepIs { base with a := 7#4, ram := [(0, 6#4)] } [0x21#8] (fun t => !t.skip) = true := by decide
/-- V-TS-5, V-TS-6. -/
theorem test_skgz :
    stepIs { base with g := 15#4, pinQueue := [pins 0 0 0 false false false] } [0x33#8, 0x21#8] (fun t => t.skip) = true
    ∧ stepIs { base with pinQueue := [pins 0 4 0 false false false] } [0x33#8, 0x21#8] (fun t => !t.skip) = true := by decide
/-- V-TS-7, V-TS-8. -/
theorem test_skgbz :
    stepIs { base with pinQueue := [pins 0 13 0 false false false] } [0x33#8, 0x11#8] (fun t => t.skip) = true
    ∧ stepIs { base with pinQueue := [pins 0 13 0 false false false] } [0x33#8, 0x01#8] (fun t => !t.skip) = true
    ∧ stepIs { base with pinQueue := [pins 0 13 0 false false false] } [0x33#8, 0x03#8] (fun t => !t.skip) = true
    ∧ stepIs { base with pinQueue := [pins 0 13 0 false false false] } [0x33#8, 0x13#8] (fun t => !t.skip) = true := by
  decide
/-- V-TS-9, V-TS-10. -/
theorem test_skmbz :
    stepIs { base with ram := [(0, 11#4)] } [0x03#8] (fun t => t.skip) = true
    ∧ stepIs { base with ram := [(0, 11#4)] } [0x01#8] (fun t => !t.skip) = true
    ∧ stepIs { base with ram := [(0, 11#4)] } [0x11#8] (fun t => !t.skip) = true
    ∧ stepIs { base with ram := [(0, 11#4)] } [0x13#8] (fun t => !t.skip) = true := by decide
theorem test_skt : stepIs { base with tov := true } [0x41#8] (fun t => t.skip && !t.tov) = true
    ∧ stepIs base [0x41#8] (fun t => !t.skip && !t.tov) = true := by decide

/-! ### Input and output (V-IO) -/

theorem test_ing : stepIs { base with g := 15#4, pinQueue := [pins 0 10 0 false false false] } [0x33#8, 0x2A#8]
    (fun t => t.a == 10#4 && t.g == 15#4) = true := by decide
/-- V-IO-2, and U8, by the part number and by option 33 (R6). -/
theorem test_inin : stepIs { base with il3 := true, pinQueue := [pins 6 0 0 false false false] } [0x33#8, 0x28#8]
      (fun t => t.a == 6#4 && t.il3) = true
    ∧ (match step (load noIn [0x33#8, 0x28#8]) with | .refused r => r == .noInPins | _ => false) = true
    ∧ (match step (load (withOptions base { bonding := .pins24 }) [0x33#8, 0x28#8]) with
      | .refused r => r == .noInPins | _ => false) = true := by decide
/-- V-IO-3, V-IO-4. -/
theorem test_inil :
    stepIs { base with il3 := true } [0x33#8, 0x29#8] (fun t => t.a == 0b1100#4 && !t.il3 && !t.il0) = true
    ∧ stepIs (withOptions { base with il3 := true, il0 := true, pinQueue := [pins 0 0 0 false false false] }
        { cko := .inputWithLoad }) [0x33#8, 0x29#8] (fun t => t.a == 0b1001#4 && !t.il3 && !t.il0) = true := by decide
theorem test_inl : stepIs { base with pinQueue := [pins 0 0 0xC5 false false false] } [0x33#8, 0x2E#8]
    (fun t => digit t 0 0 == 12#4 && t.a == 5#4 && t.q == 0#8) = true := by decide
theorem test_obd : stepIs { base with b := 0x23#7 } [0x33#8, 0x3E#8] (fun t => t.d == 3#4) = true := by decide
theorem test_ogi : stepIs base [0x33#8, 0x59#8] (fun t => t.g == 9#4) = true := by decide
theorem test_omg : stepIs { base with ram := [(0, 6#4)] } [0x33#8, 0x3A#8] (fun t => t.g == 6#4) = true := by decide
/-- V-IO-11, V-IO-12. -/
theorem test_xas :
    stepIs { base with en := 1#4, a := 5#4, sio := 12#4 } [0x4F#8] (fun t => t.a == 12#4 && t.sio == 5#4 && !t.skl) = true
    ∧ stepIs { base with a := 5#4, sio := 12#4, c := true, pinQueue := [pins 0 0 0 true false false] } [0x4F#8]
      (fun t => t.a == 12#4 && t.sio == 0b1011#4 && t.skl) = true := by decide

/-! ### Sequencing, interrupt, timer, serial port, reset -/

/-- U16: with one tick before the effect, XAS delivers the shifted SIO; with ticking CAMT cycles, TP counts them. -/
theorem test_tickPhase :
    stepIs (withParams { base with a := 5#4, sio := 12#4, pinQueue := [pins 0 0 0 true false false] }
        ⟨false, false, false, 0, ⟨1, false⟩⟩) [0x4F#8] (fun t => t.a == 0b1001#4 && t.sio == 5#4 && t.tp == 1#2) = true
    ∧ stepIs (withParams { base with ram := [(0, 0#4)] } ⟨false, false, false, 0, ⟨0, true⟩⟩) [0x33#8, 0x3F#8]
      (fun t => t.tp == 2#2) = true := by decide
/-- R71, R106 on a 1K part: the byte 85 at 480 is the same JP as at 080, and goes to the same word (entry 45); on a 2K part
it is JSRP there. -/
theorem test_pageContext :
    stepIs { small with pc := 0x480#11 } [0x85#8] (fun t => t.romIndex t.pc == 0x085 && t.sa == 0x111#11) = true
    ∧ stepIs { small with pc := 0x080#11 } [0x85#8] (fun t => t.romIndex t.pc == 0x085 && t.sa == 0x111#11) = true
    ∧ stepIs { base with pc := 0x480#11 } [0x85#8] (fun t => t.pc == 0x085#11 && t.sa == 0x481#11) = true := by decide
/-- V-EN-16, V-EN-17. -/
theorem test_skip :
    stepIs { base with skip := true } [0x33#8, 0x5A#8] (fun t => t.pc == 2#11 && t.g == 0#4 && !t.skip && t.tp == 2#2) = true
    ∧ stepIs { base with skip := true } [0xFF#8] (fun t => t.pc == 1#11 && t.tp == 1#2) = true := by decide
/-- V-EN-7. -/
theorem test_undefinedEncoding :
    stepFaults base [0x33#8, 0x00#8] (.undefinedEncoding (.undefinedSecondByte 0x00#8)) = true := by decide
/-- V-INT-1. -/
theorem test_interrupt : stepIs { base with en := 2#4, intReq := true, pc := 0x006#11, skip := true } [0x40#8]
    (fun t => t.pc == 0x0FF#11 && t.sa == 0x006#11 && t.sb == 0x111#11 && t.sc == 0x222#11
      && t.sskip && !t.skip && t.en == 0#4 && !t.intReq) = true := by decide
/-- V-INT-3, V-INT-5: no acknowledgement before a JP or inside a run of LBIs. -/
theorem test_interrupt_waits :
    stepIs { base with en := 2#4, intReq := true, pc := 0x010#11 } [0xC5#8] (fun t => t.pc == 0x005#11 && t.intReq) = true
    ∧ stepIs { base with en := 2#4, intReq := true, lbiChain := true } [0x0F#8] (fun t => t.pc == 1#11 && t.intReq) = true := by
  decide
/-- V-INT-2: a pulse while the interrupt is disabled. -/
theorem test_pulseIN1 : (base.deliver .pulseIN1).intReq = false
    ∧ ((withParams base ⟨true, false, false, 0, {}⟩).deliver .pulseIN1).intReq = true
    ∧ (State.deliver { base with en := 2#4 } .pulseIN1).intReq = true := by decide
/-- V-TM-1, V-TM-3. -/
theorem test_timer : (State.timeBase { base with t := 0xFF#8, tp := 3#2 }).t = 0#8
    ∧ (State.timeBase { base with t := 0xFF#8, tp := 3#2 }).tov = true
    ∧ (State.deliver (withOptions { base with t := 0xFF#8 } { timer := .eventCounter }) .pulseIN2).t = 0#8
    ∧ (State.deliver (withOptions { base with t := 0xFF#8 } { timer := .eventCounter }) .pulseIN2).tov = true := by decide
/-- V-SIO-1, V-SIO-2. -/
theorem test_sio :
    (State.ticks false 4 { base with
      sio := 0b1001#4
      pinQueue := [pins 0 0 0 true false false, pins 0 0 0 true false false, pins 0 0 0 false false false,
        pins 0 0 0 true false false] }).sio = 0b1101#4
    ∧ (State.deliver { base with en := 1#4, sio := 0#4 } .pulseSI).sio = 15#4 := by decide
/-- V-HLT-1: HALT is frozen, Continue leaves it. -/
theorem test_continue :
    stepIs { base with halted := true, t := 5#8 } [0x00#8] (fun t => t.isHalted && t.pc == 0#11 && t.t == 5#8) = true
    ∧ stepIs (withOptions { base with halted := true, events := [.continueRun] } { cko := .haltPort }) [0x00#8]
      (fun t => !t.isHalted && t.pc == 0#11 && t.events == []) = true := by decide
/-- R268 (b). -/
theorem test_haltForce : (State.deliver (withOptions base { cko := .haltPort }) .haltForce).isHalted = true
    ∧ (base.deliver .haltForce).isHalted = false := by decide
/-- R300: power-up forgets RAM; with option 29 = 1 it initializes nothing. -/
theorem test_powerUp : (State.powerUp { base with a := 5#4, ram := [(3, 7#4)] }).a = 0#4
    ∧ (State.powerUp { base with a := 5#4, ram := [(3, 7#4)] }).ram = []
    ∧ (State.powerUp (withOptions base { noResetLogic := true })).a = (Config.uninitialized 1).a := ⟨rfl, rfl, rfl⟩
/-- R52, R54. -/
theorem test_ckoPin : base.ckoPin = .clock ∧ State.ckoPin { base with halted := true } = .unspecified
    ∧ (withOptions { base with halted := true } { cko := .haltPort }).ckoPin = .haltPort true
    ∧ (withOptions base { cko := .inputHighZ }).ckoPin = .input := by decide
/-- R2, R31: 23 lines with IN3 to IN0, 19 without. -/
theorem test_ioLines : (ioLines base.cfg).length = 23 ∧ (ioLines noIn.cfg).length = 19
    ∧ (withOptions noIn {}).pin false (.inp 3) = .absent ∧ base.pin false (.inp 3) = .undriven := by decide
/-- R2: 15 lines on the 20-pin part, of which R230 says that a G line is missing. -/
theorem test_ioLines20 : (ioLines { base.cfg with part := .etc9422 }).length = 15 ∧ ∃ k, .g k ∉ ioLines { base.cfg with part := .etc9422 } :=
  ⟨lines20_length, lines20_lacks_g⟩
/-- R52: G = 1010, D = 0101, Q = 81 with EN[2] = 1. -/
theorem test_pin :
    State.pin { base with g := 0b1010#4 } false (.g 1) = .level true ∧ State.pin { base with g := 0b1010#4 } false (.g 2) = .level false
    ∧ State.pin { base with d := 0b0101#4 } false (.d 2) = .level true
    ∧ State.pin { base with q := 0x81#8, en := 4#4 } false (.l 7) = .level true
    ∧ State.pin { base with q := 0x81#8 } false (.l 7) = .undriven := by decide
/-- V-RST-1. -/
theorem test_reset : (match step { base with a := 5#4, en := 15#4, pc := 9#11, ram := [(3, 7#4)], events := [.resetPin] } with
    | .next t => t.a == 0#4 && t.en == 0#4 && t.pc == 0#11 && t.skl && t.readDigit 3 == 7#4
    | _ => false) = true := by decide
/-- V-HOST-1. -/
theorem test_hostWrite :
    ((withOptions { base with g := 1#4 } { microbus := true }).deliver (.hostWrite 0x5A#8)).q = 0x5A#8
    ∧ ((withOptions { base with g := 1#4 } { microbus := true }).deliver (.hostWrite 0x5A#8)).g = 0#4 := by decide
/-- The interface: the word of JMP 0x123 runs as the first instruction after reset. -/
theorem test_withFetchWord :
    (match step (State.reset.withFetchWord 16 0x6123) with | .next t => t.pc | _ => 0#11) = 0x123#11 := by decide

/-! ### The hypotheses of the statements are met (each clause, at the ends of its range) -/

/-- A running state with two given bytes at PC. -/
def running (b1 b2 : Byte) : State := load base [b1, b2]

/-- A state that waits for the interrupt. -/
def requested (s : State) : State := { s with en := 2#4, intReq := true }

theorem witness_AddAdtAiscSums : (1#4 : Digit) ≠ 0#4 ∧ (15#4 : Digit) ≠ 0#4 := by decide
theorem witness_JmpJpTargets : (0#7 : BitVec 7) ≠ 0x3F#7 ∧ (0x7E#7 : BitVec 7) ≠ 0x7F#7 ∧ (0x7E#7 : BitVec 7) ≠ 0x3F#7
    ∧ (0x3E#6 : BitVec 6) ≠ 0x3F#6 ∧ inPages23 (State.pc { base with pc := 0x080#11 }) = true
    ∧ inPages23 (State.pc { base with pc := 0x0FF#11 }) = true := by decide
theorem witness_JsrpCallsPage2 : (0#6 : BitVec 6) ≠ 0x3F#6 ∧ (0x3E#6 : BitVec 6) ≠ 0x3F#6 := by decide
theorem witness_HaltItStopTheMachine :
    base.cfg.options.dualClock ≠ .d0ExternalClock
    ∧ (withOptions base { dualClock := .d0ExternalClock }).cfg.options.dualClock = .d0ExternalClock
    ∧ base.cfg.options.timer = .timeBase
    ∧ (withOptions base { timer := .eventCounter }).cfg.options.timer = .eventCounter := by decide
theorem witness_CamtCtmaTimerCopies : base.cfg.params.tickPhase.camtTicks = false ∧ base.cfg.options.dualClock = .normal
    ∧ (withOptions base { dualClock := .d0ExternalClock }).cfg.options.dualClock ≠ .normal := by decide
theorem witness_CamqCqmaCopies : (State.en { base with en := 4#4 }).getLsbD 2 = true := by decide
theorem witness_LdLddLoadA : (small.cfg.part.is2K = true ∨ (3#3 : BitVec 3).toNat < 4)
    ∧ (base.cfg.part.is2K = true ∨ (7#3 : BitVec 3).toNat < 4) := by decide
theorem witness_LqidLoadsQ : (withParams base ⟨false, true, false, 0, {}⟩).cfg.params.lqidPopRestoresSkip = true
    ∧ base.cfg.params.lqidPopRestoresSkip = false := by decide
theorem witness_RmbSmbChangeOneBit :
    (Instr.rmb0, 0, false) ∈ [(Instr.rmb0, 0, false), (.rmb1, 1, false), (.rmb2, 2, false), (.rmb3, 3, false),
      (.smb0, 0, true), (.smb1, 1, true), (.smb2, 2, true), (.smb3, 3, true)]
    ∧ (Instr.smb3, 3, true) ∈ [(Instr.rmb0, 0, false), (.rmb1, 1, false), (.rmb2, 2, false), (.rmb3, 3, false),
      (.smb0, 0, true), (.smb1, 1, true), (.smb2, 2, true), (.smb3, 3, true)] := by decide
theorem witness_XadExchangesDirect : (small.cfg.part.is2K = true ∨ (3#3 : BitVec 3).toNat < 4)
    ∧ (base.cfg.part.is2K = true ∨ (7#3 : BitVec 3).toNat < 4) := by decide
theorem witness_RegistersA1KPartLacks : small.cfg.part.is2K = false ∧ 4 ≤ (4#3 : BitVec 3).toNat
    ∧ 4 ≤ (7#3 : BitVec 3).toNat := by decide
theorem witness_RamAddressInRange : (0 : Nat) ≠ 127 ∧ (63 : Nat) ≠ 64 := by decide
theorem witness_LbiLoadsB : 8 ≤ (8#4 : Digit).toNat ∧ 8 ≤ (15#4 : Digit).toNat
    ∧ (small.cfg.part.is2K = true ∨ (3#3 : BitVec 3).toNat < 4)
    ∧ (base.cfg.part.is2K = true ∨ (7#3 : BitVec 3).toNat < 4) := by decide
theorem witness_LeiLoadsEn : (5#4 : Digit).getLsbD 2 = true ∧ (0#4 : Digit).getLsbD 2 = false
    ∧ (5#4 : Digit).getLsbD 0 = true ∧ (8#4 : Digit).getLsbD 0 = false
    ∧ State.skl { base with skl := false } = false ∧ State.skl { base with skl := true } = true ∧ base.isStopped = false := by
  decide
theorem witness_SkcSkeSkmbzSkip :
    (Instr.skmbz0, 0) ∈ [(Instr.skmbz0, 0), (.skmbz1, 1), (.skmbz2, 2), (.skmbz3, 3)]
    ∧ (Instr.skmbz3, 3) ∈ [(Instr.skmbz0, 0), (.skmbz1, 1), (.skmbz2, 2), (.skmbz3, 3)] := by decide
theorem witness_SkgzSkgbzTestPins :
    (Instr.skgbz0, 0) ∈ [(Instr.skgbz0, 0), (.skgbz1, 1), (.skgbz2, 2), (.skgbz3, 3)]
    ∧ (Instr.skgbz3, 3) ∈ [(Instr.skgbz0, 0), (.skgbz1, 1), (.skgbz2, 2), (.skgbz3, 3)] := by decide
theorem witness_InputsReadPins : base.hasIn = true ∧ noIn.hasIn = false
    ∧ (withOptions base { bonding := .pins24 }).hasIn = false ∧ base.cfg.options.bonding = .pins28
    ∧ ¬ (base.cfg.part.pins = 20 ∨ base.cfg.options.bonding = .pins20)
    ∧ Part.pins .etc9422 = 20 ∧ (withOptions base { bonding := .pins20 }).cfg.options.bonding = .pins20
    ∧ (∀ line ∈ [IoLine.g 0, .g 3, .d 0, .d 3, .l 0, .l 7, .so, .sk, .inp 0, .inp 3, .si], line ∈ ioLines base.cfg) := by
  decide
theorem witness_InilReadsAndClearsIl :
    (withOptions base { cko := .inputWithLoad }).cfg.options.cko = .inputWithLoad
    ∧ (withOptions base { cko := .inputHighZ }).cfg.options.cko = .inputHighZ
    ∧ base.cfg.options.cko = .clockOutput ∧ (withOptions base { cko := .haltPort }).cfg.options.cko = .haltPort
    ∧ base.hasIn = true := by decide
theorem witness_ExecCompletesExactlyWhenDefined : ∃ t, exec (.ldd 3#3 15#4) small = .next t := ⟨_, rfl⟩
theorem witness_RegisterWriters : ∃ t, exec .camt base = .next t := ⟨_, rfl⟩
theorem witness_DecodeEncodeRoundTrip :
    Instr.wf (.jpPages23 0x7E#7) = true ∧ Instr.fitsPage true (.jpPages23 0x7E#7) = true
    ∧ Instr.wf (.jmp 0x7FF#11) = true ∧ Instr.fitsPage false (.jmp 0x7FF#11) = true
    ∧ Instr.wf (.lbiShort 3#2 9#4) = true ∧ Instr.fitsPage true (.lbiShort 3#2 9#4) = true := by decide
theorem witness_DecodedBytesAreTheEncoding :
    decode false [0x80#8, 0x44#8] = .ok (.jsrp 0#6, [0x44#8]) ∧ decode true [0xFE#8] = .ok (.jpPages23 0x7E#7, [])
    ∧ decode false [0x6F#8, 0xFF#8] = .ok (.jsr 0x7FF#11, []) := by decide
theorem witness_OnlyUnlistedSecondBytesFail : ∀ p, decode false [0x33#8, 0x7F#8] ≠ .ok p := by
  have h : decode false [0x33#8, 0x7F#8] = .error (.undefinedSecondByte 0x7F#8) := by decide
  intro p hp
  rw [h] at hp
  cases hp
theorem witness_StepRunsDecodedInstruction : (running 0x30#8 0x44#8).Running
    ∧ decode (running 0x30#8 0x44#8).pageContext [(running 0x30#8 0x44#8).romRead (running 0x30#8 0x44#8).pc,
        (running 0x30#8 0x44#8).romRead ((running 0x30#8 0x44#8).pc + 1#11)] = .ok (.asc, [0x44#8])
    ∧ (running 0x30#8 0x44#8).skip = false ∧ ((running 0x30#8 0x44#8).lbiChain && Instr.asc.isLbi) = false
    ∧ (running 0x30#8 0x44#8).cfg.params.tickPhase = { ticksBefore := 0, camtTicks := false } :=
  ⟨⟨rfl, rfl, rfl, rfl⟩, by decide, rfl, rfl, rfl⟩
theorem witness_SkippedInstructionIsPassedOver : State.Running { running 0x33#8 0x5A#8 with skip := true }
    ∧ decode (running 0x33#8 0x5A#8).pageContext [(running 0x33#8 0x5A#8).romRead 0#11, (running 0x33#8 0x5A#8).romRead (0#11 + 1#11)]
      = .ok (.ogi 10#4, []) := ⟨⟨rfl, rfl, rfl, rfl⟩, by decide⟩
theorem witness_ChainedLbiIsPassedOver : State.Running { running 0x33#8 0xF0#8 with lbiChain := true }
    ∧ decode (running 0x33#8 0xF0#8).pageContext [(running 0x33#8 0xF0#8).romRead 0#11, (running 0x33#8 0xF0#8).romRead (0#11 + 1#11)]
      = .ok (.lbiLong 7#3 0#4, [])
    ∧ State.Running { running 0x1E#8 0x44#8 with lbiChain := true }
    ∧ decode (running 0x1E#8 0x44#8).pageContext [(running 0x1E#8 0x44#8).romRead 0#11, (running 0x1E#8 0x44#8).romRead (0#11 + 1#11)]
      = .ok (.lbiShort 1#2 15#4, [0x44#8]) := ⟨⟨rfl, rfl, rfl, rfl⟩, by decide, ⟨rfl, rfl, rfl, rfl⟩, by decide⟩
theorem witness_UndefinedEncodingFaults : (running 0x33#8 0x7F#8).Running
    ∧ (running 0x33#8 0x7F#8).romRead (running 0x33#8 0x7F#8).pc = 0x33#8
    ∧ ¬ (((running 0x33#8 0x7F#8).romRead ((running 0x33#8 0x7F#8).pc + 1#11)).toNat ∈ [0x01, 0x03, 0x11, 0x13, 0x21,
          0x28, 0x29, 0x2A, 0x2C, 0x2E, 0x2F, 0x38, 0x39, 0x3A, 0x3C, 0x3E, 0x3F]
      ∨ (0x50 ≤ ((running 0x33#8 0x7F#8).romRead ((running 0x33#8 0x7F#8).pc + 1#11)).toNat
          ∧ ((running 0x33#8 0x7F#8).romRead ((running 0x33#8 0x7F#8).pc + 1#11)).toNat ≤ 0x6F)
      ∨ 0x80 ≤ ((running 0x33#8 0x7F#8).romRead ((running 0x33#8 0x7F#8).pc + 1#11)).toNat) :=
  ⟨⟨rfl, rfl, rfl, rfl⟩, by decide, by decide⟩
theorem witness_RomAddressIsReduced : small.cfg.part.is2K = false
    ∧ 0x080 ≤ small.romIndex (State.pc { small with pc := 0x480#11 }) ∧ small.romIndex (State.pc { small with pc := 0x4FF#11 }) ≤ 0x0FF
    ∧ (0x123#11 : RomAddr).toNat % 1024 = (0x523#11 : RomAddr).toNat % 1024
    ∧ small.romIndex 0x400#11 ≠ small.romIndex 0x3FF#11 ∧ base.cfg.part.is2K = true := by decide
/-- One state for each clause: disabled, no request, NOP, JP, a chained LBI, and a first LBI under both values of the
parameter. -/
theorem witness_InterruptBoundary :
    (∀ s ∈ [{ running 0x44#8 0x44#8 with intReq := true }, { running 0x44#8 0x44#8 with en := 2#4 }],
      s.events = [] ∧ s.isHalted = false ∧ s.idle = false ∧ (s.en.getLsbD 1 = false ∨ s.intReq = false))
    ∧ (∀ s ∈ [requested (running 0x44#8 0x44#8), requested (running 0xC5#8 0x44#8),
        { requested (running 0x0F#8 0x44#8) with lbiChain := true },
        withParams (requested (running 0x0F#8 0x44#8)) ⟨false, false, true, 0, {}⟩, requested (running 0x0F#8 0x44#8)],
      s.events = [] ∧ s.isHalted = false ∧ s.idle = false ∧ s.en.getLsbD 1 = true ∧ s.intReq = true)
    ∧ decode (running 0x44#8 0x44#8).pageContext [(running 0x44#8 0x44#8).romRead 0#11, (running 0x44#8 0x44#8).romRead 1#11] = .ok (.nop, [0x44#8])
    ∧ decode (running 0xC5#8 0x44#8).pageContext [(running 0xC5#8 0x44#8).romRead 0#11, (running 0xC5#8 0x44#8).romRead 1#11]
      = .ok (.jpPage 5#6, [0x44#8])
    ∧ decode (running 0x0F#8 0x44#8).pageContext [(running 0x0F#8 0x44#8).romRead 0#11, (running 0x0F#8 0x44#8).romRead 1#11]
      = .ok (.lbiShort 0#2 0#4, [0x44#8])
    ∧ Instr.isTransferOfControl .nop = false ∧ Instr.isLbi .nop = false ∧ Instr.isTransferOfControl (.jpPage 5#6) = true
    ∧ Instr.isLbi (.lbiShort 0#2 0#4) = true
    ∧ (withParams (requested (running 0x0F#8 0x44#8)) ⟨false, false, true, 0, {}⟩).cfg.params.ackBeforeFirstLbi = true
    ∧ (requested (running 0x0F#8 0x44#8)).cfg.params.ackBeforeFirstLbi = false
    ∧ (requested (running 0x0F#8 0x44#8)).lbiChain = false := by decide
theorem witness_InterruptEntrySavesState : (requested (running 0x40#8 0x44#8)).events = []
    ∧ (requested (running 0x40#8 0x44#8)).acknowledges = true := by decide
theorem witness_ReturnFromInterrupt : base.interrupt.sa = base.interrupt.sa ∧ base.interrupt.sskip = base.interrupt.sskip
    ∧ (∃ t, exec .ret base.interrupt = .next t) ∧ (∃ t, exec .retsk base.interrupt = .next t) :=
  ⟨rfl, rfl, ⟨_, rfl⟩, ⟨_, rfl⟩⟩
theorem witness_PulseLatches : State.events { base with events := [.pulseIN1, .quiet] } = .pulseIN1 :: [.quiet]
    ∧ Event.pulseIN1 ≠ .quiet ∧ State.events { base with events := [.quiet] } = .quiet :: [] ∧ base.events = []
    ∧ base.isStopped = false ∧ base.hasIn = true ∧ noIn.isStopped = false ∧ noIn.hasIn = false
    ∧ ∃ t, exec (.lei 2#4) base = .next t :=
  ⟨rfl, by decide, rfl, rfl, rfl, rfl, rfl, rfl, ⟨_, rfl⟩⟩
theorem witness_TimeBaseCountsCycles : base.cfg.options.timer = .timeBase ∧ base.events = []
    ∧ State.isHalted { base with idle := true } = false ∧ State.idle { base with idle := true } = true
    ∧ State.isHalted { base with halted := true } = true := by decide
theorem witness_EventCounterCountsPulses :
    (withOptions base { timer := .eventCounter }).cfg.options.timer = .eventCounter
    ∧ (withOptions base { timer := .eventCounter }).hasIn = true
    ∧ (withOptions base { timer := .eventCounter }).isStopped = false
    ∧ (withOptions noIn { timer := .eventCounter }).cfg.options.timer = .eventCounter
    ∧ (withOptions noIn { timer := .eventCounter }).hasIn = false
    ∧ (withOptions base { timer := .eventCounter }).cfg.legal = true := by decide
theorem witness_SerialShift : (State.en { base with en := 8#4 }).getLsbD 0 = false
    ∧ (State.en { base with en := 8#4 }).getLsbD 3 = true
    ∧ ∃ p, State.pinQueue { base with en := 8#4, pinQueue := [p, p, p, p] } = p :: p :: p :: p :: [] :=
  ⟨by decide, by decide, pins 0 0 0 true false false, rfl⟩
theorem witness_SerialCounter : base.isStopped = false ∧ base.en.getLsbD 0 = false
    ∧ State.isStopped { base with en := 1#4 } = false ∧ (State.en { base with en := 1#4 }).getLsbD 0 = true := by decide
theorem witness_SerialAndLOutputs :
    base.en.getLsbD 0 = false ∧ base.en.getLsbD 3 = false ∧ (8#4 : Digit).getLsbD 0 = false ∧ (8#4 : Digit).getLsbD 3 = true
    ∧ (State.en { base with en := 5#4, sio := 15#4 }).getLsbD 0 = true
    ∧ State.isStopped { base with en := 5#4, sio := 15#4 } = false
    ∧ 0 < (State.sio { base with en := 5#4, sio := 15#4 }).toNat
    ∧ base.skl = true ∧ State.skl { base with skl := false } = false ∧ base.isStopped = false
    ∧ (State.en { base with en := 5#4, sio := 15#4 }).getLsbD 2 = true ∧ base.en.getLsbD 2 = false := by decide
theorem witness_HostWriteAndRead : (withOptions base { microbus := true }).cfg.options.microbus = true
    ∧ base.cfg.options.microbus = false := by decide
/-- The shortest idle state, one cycle, and the longest, 1024. -/
theorem witness_IdleLasts :
    (∀ s ∈ [State.mk base.cfg [] [] 0 0 false 0 0 0 false false 0 0 true 0xFF#8 3#2 false 0 0 0 0 false false false false
          false false true [] [] 0 0, { base with idle := true }],
      s.cfg.options.timer = .timeBase ∧ s.events = [] ∧ s.isHalted = false ∧ s.idle = true)
    ∧ 0 < (256 - (0xFF#8 : Byte).toNat) * 4 - (3#2 : BitVec 2).toNat
    ∧ 1023 < (256 - (State.t { base with idle := true }).toNat) * 4 - (State.tp { base with idle := true }).toNat := by
  decide
theorem witness_HaltedIsFrozen : State.events { base with halted := true, intReq := true, en := 2#4 } = []
    ∧ State.isHalted { base with halted := true, intReq := true, en := 2#4 } = true := by decide
/-- The events of HALT under the options that matter; HALT left by the continue function and by the clock, IDLE left by
the overflow. -/
theorem witness_OnlyTheseEndHaltAndIdle :
    (∀ e ∈ [Event.haltForce, .continueRun],
      (withOptions { base with events := [e] } { cko := .haltPort }).events = e :: []
      ∧ (withOptions { base with events := [e] } { cko := .haltPort }).cfg.options.cko = .haltPort
      ∧ base.cfg.options.cko ≠ .haltPort)
    ∧ (withOptions base { cko := .haltPort }).cfg.options.dualClock ≠ .d0ExternalClock
    ∧ (withOptions base { cko := .haltPort, dualClock := .d0ExternalClock }).cfg.options.dualClock = .d0ExternalClock
    ∧ State.events { base with events := [.clockStop] } = .clockStop :: []
    ∧ (∃ t, step (withOptions { base with halted := true, events := [.continueRun] } { cko := .haltPort }) = .next t
      ∧ (withOptions { base with halted := true, events := [.continueRun] } { cko := .haltPort }).isHalted = true
      ∧ t.isHalted = false)
    ∧ (∃ t, step { base with clockStopped := true, events := [.clockStart] } = .next t
      ∧ State.isHalted { base with clockStopped := true, events := [.clockStart] } = true ∧ t.isHalted = false)
    ∧ (∃ t, step { base with idle := true, t := 0xFF#8, tp := 3#2 } = .next t
      ∧ State.idle { base with idle := true, t := 0xFF#8, tp := 3#2 } = true ∧ t.idle = false) :=
  ⟨by decide, by decide, by decide, rfl, ⟨_, rfl, rfl, rfl⟩, ⟨_, rfl, rfl, rfl⟩, ⟨_, rfl, rfl, rfl⟩⟩
theorem witness_ResetEvent :
    State.events { base with halted := true, events := [.resetPin, .quiet] } = .resetPin :: [.quiet]
    ∧ State.events { base with idle := true, events := [.powerUp] } = .powerUp :: []
    ∧ base.cfg.options.noResetLogic = false
    ∧ (withOptions base { noResetLogic := true }).cfg.options.noResetLogic = true := by decide
theorem witness_RomNeverChanges : ∃ t, step (running 0x44#8 0x44#8) = .next t := ⟨_, rfl⟩
theorem witness_StepKeepsInv : State.Inv { running 0x75#8 0x44#8 with b := 0x7F#7, ram := [(0, 1#4), (127, 2#4)] }
    ∧ ∃ t, step { running 0x75#8 0x44#8 with b := 0x7F#7, ram := [(0, 1#4), (127, 2#4)] } = .next t :=
  ⟨⟨rfl, rfl, rfl⟩, ⟨_, rfl⟩⟩

end Sys2Proof.Tests
end

/-! PROOFS. The frame of every instruction's effect, the stack, the delivery of events, the serial port and its outputs, the
state after reset; and from them the statements of 10_state.md. -/

namespace Sys2Proof.Machine

/-! ### What an instruction's own effect can change -/

/-- What an instruction's effect can change: every field of the state that is not named keeps its value. `pinQueue` and
`freeIndex` are the samples and free values it takes (entry 8). `exec_frame` says that the model keeps to this. -/
def InstrFrame (s t : State) : Instr → Prop
  | .nop => t = s
  | .add | .adt | .clra | .comp | .xor | .cba | .ldd _ _ => t = { s with a := t.a }
  | .asc | .casc => t = { s with a := t.a, c := t.c, skip := t.skip }
  | .aisc _ => t = { s with a := t.a, skip := t.skip }
  | .rc | .sc => t = { s with c := t.c }
  | .jid | .jmp _ | .jpPages23 _ | .jpPage _ => t = { s with pc := t.pc }
  | .jsrp _ | .jsr _ => t = { s with pc := t.pc, sa := t.sa, sb := t.sb, sc := t.sc }
  | .ret | .retsk =>
    t = { s with pc := t.pc, sa := t.sa, sb := t.sb, sc := t.sc, skip := t.skip, sskip := t.sskip }
  | .lqid =>
    t = { s with q := t.q, sa := t.sa, sb := t.sb, sc := t.sc, skip := t.skip, sskip := t.sskip }
      ∧ (s.cfg.params.lqidPopRestoresSkip = false → t.skip = s.skip ∧ t.sskip = s.sskip)
  | .halt => t = { s with halted := t.halted, pinQueue := t.pinQueue, freeIndex := t.freeIndex }
  | .it => t = { s with idle := t.idle }
  | .camt => t = { s with t := t.t, tp := t.tp, tov := t.tov }
  | .camq => t = { s with q := t.q }
  | .cqma | .xad _ _ => t = { s with a := t.a, ram := t.ram }
  | .ctma | .inl =>
    t = { s with a := t.a, ram := t.ram, pinQueue := t.pinQueue, freeIndex := t.freeIndex }
  | .ld _ | .xabr => t = { s with a := t.a, b := t.b }
  | .x _ => t = { s with a := t.a, b := t.b, ram := t.ram }
  | .xds _ | .xis _ => t = { s with a := t.a, b := t.b, ram := t.ram, skip := t.skip }
  | .rmb0 | .rmb1 | .rmb2 | .rmb3 | .smb0 | .smb1 | .smb2 | .smb3 => t = { s with ram := t.ram }
  | .stii _ => t = { s with b := t.b, ram := t.ram }
  | .cab | .lbiShort _ _ | .lbiLong _ _ => t = { s with b := t.b }
  | .lei _ => t = { s with en := t.en }
  | .skc | .ske | .skmbz0 | .skmbz1 | .skmbz2 | .skmbz3 => t = { s with skip := t.skip }
  | .skgz | .skgbz0 | .skgbz1 | .skgbz2 | .skgbz3 =>
    t = { s with skip := t.skip, pinQueue := t.pinQueue, freeIndex := t.freeIndex }
  | .skt => t = { s with tov := t.tov, skip := t.skip }
  | .ing | .inin => t = { s with a := t.a, pinQueue := t.pinQueue, freeIndex := t.freeIndex }
  | .inil =>
    t = { s with a := t.a, il3 := t.il3, il0 := t.il0, pinQueue := t.pinQueue, freeIndex := t.freeIndex }
  | .obd => t = { s with d := t.d }
  | .ogi _ | .omg => t = { s with g := t.g }
  | .xas => t = { s with a := t.a, sio := t.sio, skl := t.skl }

/-- A HALT request changes the HALT flip-flop and takes at most a sample (R268). -/
theorem State.requestHalt_frame (s : State) :
    s.requestHalt = { s with
      halted := s.requestHalt.halted, pinQueue := s.requestHalt.pinQueue, freeIndex := s.requestHalt.freeIndex } := by
  unfold State.requestHalt
  split <;> rfl

/-- INIL takes at most a sample or a free value (R232). -/
theorem State.takeInil_frame (s : State) :
    s.takeInil = { s with pinQueue := s.takeInil.pinQueue, freeIndex := s.takeInil.freeIndex } := by
  unfold State.takeInil
  split <;> rfl

/-- An instruction's effect keeps to its frame. -/
theorem exec_frame {i : Instr} {s t : State} (h : exec i s = .next t) : InstrFrame s t i := by
  cases i
  case halt =>
    cases h
    exact s.requestHalt_frame
  case inil =>
    cases h
    simp only [InstrFrame]
    rw [s.takeInil_frame]
  case lqid =>
    cases h
    exact ⟨rfl, fun hp => by simp [hp]⟩
  case it | ldd | xad | lbiLong | inin | ctma =>
    simp only [exec, execIt, execLdd, execXad, execLbiLong, execInin, execCtma] at h
    split at h <;> cases h <;> rfl
  all_goals
    cases h
    rfl

/-- No instruction's effect changes the request latch, the LBI chain, the outside clock, the configuration, the ROM, the
power-up that unwritten digits belong to, or the events to come. -/
theorem exec_keeps {i : Instr} {s t : State} (h : exec i s = .next t) :
    t.intReq = s.intReq ∧ t.lbiChain = s.lbiChain ∧ t.clockStopped = s.clockStopped
      ∧ t.cfg = s.cfg ∧ t.rom = s.rom ∧ t.ramEpoch = s.ramEpoch ∧ t.events = s.events := by
  have hf := exec_frame h
  cases i
  case lqid =>
    obtain ⟨ht, -⟩ := hf
    rw [ht]
    simp only [and_self]
  all_goals
    simp only [InstrFrame] at hf
    rw [hf]
    simp only [and_self]

/-- Settles O32: a register that the instruction's frame does not name is unchanged, and for each one that it names the
instruction is in that register's list. LQID's skip and saved skip hang on the parameter (entry 17). -/
theorem registerWriters : Obligations.RegisterWriters := by
  unfold Obligations.RegisterWriters
  intro i s t h
  have hf := exec_frame h
  cases i
  case lqid =>
    obtain ⟨ht, hskip⟩ := hf
    rw [ht]
    cases hp : s.cfg.params.lqidPopRestoresSkip with
    | false => simp [hskip hp]
    | true => simp
  all_goals
    simp only [InstrFrame] at hf
    rw [hf]
    simp

/-! ### The stack -/

/-- A pop after a push returns to the pushed address, loses the old SC and restores the saved skip (R42, R258). -/
theorem State.pop_push (s : State) (v : RomAddr) :
    (s.push v).pop = { s with pc := v, sc := s.sb, skip := s.sskip, sskip := false } := by
  rw [State.pop, State.popAddress_push]
  simp [State.restoreSkipIf]

/-- Settles O42: the last pushed address is undone by `State.pop_push`, and each further pop moves the stack up by
`State.pop_eq`. -/
theorem stackHasThreeLevels : Obligations.StackHasThreeLevels := by
  unfold Obligations.StackHasThreeLevels
  intro s p1 p2 p3 p4 pushed
  have first : pushed.pop = { s with pc := p4, sa := p3, sb := p2, sc := p2, skip := s.sskip, sskip := false } := by
    rw [State.pop_push]
    rfl
  have fourth : pushed.pop.pop.pop.pop
      = { s with pc := p2, sa := p2, sb := p2, sc := p2, skip := false, sskip := false } := by
    simp only [first, State.pop_eq]
  refine ⟨?_, ?_, ?_, ?_, fun u => ?_, ?_, ?_, first, fourth⟩
  · rw [first]
  · rw [first, State.pop_eq]
  · rw [first, State.pop_eq, State.pop_eq]
  · rw [fourth]
  · rw [State.pop_eq]
    exact ⟨rfl, rfl⟩
  · rw [first]
  · rw [first]

/-! ### Events and pulses -/

section
variable {s : State} {rest : List Event}

/-- A step delivers the event that is due (R86). -/
theorem step_of_event {e : Event} (h : s.events = e :: rest) (hq : e ≠ .quiet) :
    step s = .next (State.deliver { s with events := rest } e) := by
  unfold step stepOnce
  rw [h]
  cases e with
  | quiet => exact absurd rfl hq
  | _ => rfl

/-- An entry `quiet` lets the machine take a step of its own (entry 7). -/
theorem step_of_quiet (h : s.events = .quiet :: rest) : step s = machineStep { s with events := rest } := by
  unfold step stepOnce
  rw [h]

/-- With no event due the step is the machine's own. -/
theorem step_of_noEvent (h : s.events = []) : step s = machineStep s := by
  unfold step stepOnce
  rw [h]

/-- A running chip registers the pulses on its IN pins if it has them (R6, R30). -/
theorem State.registersInPulse_running (h : s.isStopped = false) : s.registersInPulse = s.hasIn := by
  rw [State.registersInPulse, State.registersPulse_running h, Bool.and_true]

/-- A pulse on IN0 of a running machine sets IL0 if the chip has the pin (R30). -/
theorem State.pulseIN0_running (h : s.isStopped = false) : s.pulseIN0 = { s with il0 := s.il0 || s.hasIn } := by
  rw [State.pulseIN0, State.takePulse_running h, State.registersInPulse_running h]

/-- A pulse on IN3 of a running machine sets IL3 if the chip has the pin (R30). -/
theorem State.pulseIN3_running (h : s.isStopped = false) : s.pulseIN3 = { s with il3 := s.il3 || s.hasIn } := by
  rw [State.pulseIN3, State.takePulse_running h, State.registersInPulse_running h]

/-- A pulse on IN1 of a running machine requests the interrupt as D7 says, if the chip has the pin (R253). -/
theorem State.pulseIN1_running (h : s.isStopped = false) : s.pulseIN1 = { s with
    intReq := s.intReq || (s.hasIn && (s.en.getLsbD 1 || s.cfg.params.in1PulseLatchedWhenDisabled)) } := by
  rw [State.pulseIN1, State.takePulse_running h, State.registersInPulse_running h]

end

/-- Settles O46: the three kinds of step, `exec_keeps` for the latch, and the pulses of a running machine, with and without
IN pins. -/
theorem pulseLatches : Obligations.PulseLatches := by
  unfold Obligations.PulseLatches
  intro s
  refine ⟨fun _ _ => step_of_event, fun _ => step_of_quiet, step_of_noEvent, fun i t h => ?_, rfl,
    fun hin hrun => ?_, fun hin hrun => ?_⟩
  · obtain ⟨hreq, -⟩ := exec_keeps h
    exact hreq
  · simp only [State.deliver, State.pulseIN0_running hrun, State.pulseIN1_running hrun, State.pulseIN3_running hrun, hin]
    simp
  · simp only [State.deliver, State.pulseIN0_running hrun, State.pulseIN1_running hrun, State.pulseIN3_running hrun, hin]
    simp

/-! ### The serial port and the outputs -/

section
variable {s : State}

/-- The next sample depends on the queue and the number of samples taken alone. -/
theorem State.sample_congr {t : State} (hq : t.pinQueue = s.pinQueue) (hf : t.freeIndex = s.freeIndex) :
    t.sample = s.sample := by
  unfold State.sample
  rw [hq, hf]

/-- In the shift mode the serial port takes a sample and shifts its SI into SIO (R274). -/
theorem State.serial_shiftMode (h : s.en.getLsbD 0 = false) :
    s.serial = { s.takeSample with sio := s.sio.extractLsb' 0 3 ++ BitVec.ofBool s.sample.si } := by
  rw [State.serial, h]
  rfl

/-- In the shift mode each cycle shifts, the time base having no part in SIO and in the sample (R274). -/
theorem State.tick_sio_shiftMode (h : s.en.getLsbD 0 = false) (camt : Bool) :
    (s.tick camt).sio = s.sio.extractLsb' 0 3 ++ BitVec.ofBool s.sample.si := by
  cases camt with
  | true => rw [State.tick_true, State.serial_shiftMode h]
  | false =>
    have hs : s.timeBase.sample = s.sample := State.sample_congr s.timeBase_pinQueue s.timeBase_freeIndex
    have hen : s.timeBase.en.getLsbD 0 = false := by rw [State.timeBase_en, h]
    rw [State.tick_false, State.serial_shiftMode hen, hs, State.timeBase_sio]

/-- In the counter mode a cycle leaves SIO alone (R275). -/
theorem State.tick_sio_counterMode (h : s.en.getLsbD 0 = true) (camt : Bool) : (s.tick camt).sio = s.sio := by
  cases camt with
  | true => rw [State.tick_true, State.serial_counterMode s h]
  | false =>
    have hen : s.timeBase.en.getLsbD 0 = true := by rw [State.timeBase_en, h]
    rw [State.tick_false, State.serial_counterMode _ hen, State.timeBase_sio]

/-- In the counter mode a pulse on SI counts SIO of a running chip down (R275). -/
theorem State.pulseSI_counterMode (h : s.en.getLsbD 0 = true) (hrun : s.isStopped = false) :
    s.pulseSI = { s with sio := s.sio - 1#4 } := by
  rw [State.pulseSI, State.takePulse_running hrun, State.registersPulse_running hrun, h]
  rfl

/-- SO in the counter mode is EN[3] (R276). -/
theorem State.soDrive_counterMode (h : s.en.getLsbD 0 = true) : s.soDrive = s.en.getLsbD 3 := by
  rw [State.soDrive, if_pos h]

/-- SO in the shift mode is bit 3 of SIO if EN[3] enables it, else 0 (R276). -/
theorem State.soDrive_shiftMode (h : s.en.getLsbD 0 = false) :
    s.soDrive = if s.en.getLsbD 3 then s.sio.getLsbD 3 else false := by
  rw [State.soDrive, h]
  rfl

/-- SK in the counter mode is SKL (R276). -/
theorem State.skDrive_counterMode (h : s.en.getLsbD 0 = true) : s.skDrive = .level s.skl := by
  rw [State.skDrive, if_pos h]

/-- SK in the shift mode is 0 without SKL (R276). -/
theorem State.skDrive_shiftMode_low (h : s.en.getLsbD 0 = false) (hk : s.skl = false) : s.skDrive = .level false := by
  rw [State.skDrive, h, hk]
  rfl

/-- SK in the shift mode with SKL is the clock of the running machine (R276). -/
theorem State.skDrive_shiftMode_clock (h : s.en.getLsbD 0 = false) (hk : s.skl = true) (hrun : s.isStopped = false) :
    s.skDrive = .clock := by
  rw [State.skDrive, h, hk, hrun]
  rfl

/-- Without a read strobe EN[2] alone decides whether the L drivers show Q (R27). -/
theorem State.lDrive_noStrobe : s.lDrive false = if s.en.getLsbD 2 then some s.q else none := by
  simp [State.lDrive]

end

/-! ### Reset -/

/-- The outputs after reset: EN = 0 and SKL = 1 in a running machine. -/
theorem State.reset_outputs :
    State.reset.soDrive = false ∧ State.reset.skDrive = .clock ∧ State.reset.lDrive false = none :=
  ⟨State.soDrive_shiftMode rfl, State.skDrive_shiftMode_clock rfl rfl rfl, State.lDrive_noStrobe⟩

/-- Settles O51: the two modes of SIO case by case, each from the lemma about its output. -/
theorem serialAndLOutputs : Obligations.SerialAndLOutputs := by
  unfold Obligations.SerialAndLOutputs
  obtain ⟨hso, hsk, -⟩ := State.reset_outputs
  refine ⟨hso, hsk, fun s => ⟨fun h camt => ?_, fun h => ⟨State.tick_sio_counterMode h, fun hrun hpos => ?_⟩,
    fun h h3 => ?_, fun h h3 => ?_, State.soDrive_counterMode, State.skDrive_counterMode, State.skDrive_shiftMode_low,
    State.skDrive_shiftMode_clock, fun h2 => ?_, fun h2 => ?_⟩⟩
  · rw [State.tick_sio_shiftMode h, BitVec.getLsbD_append]
    simp
  · have hsio : (s.deliver .pulseSI).sio = s.sio - 1#4 := by
      rw [State.deliver, State.pulseSI_counterMode h hrun]
    rw [hsio]
    bv_omega
  · rw [State.soDrive_shiftMode h, h3]
    rfl
  · rw [State.soDrive_shiftMode h, if_pos h3]
  · rw [State.lDrive_noStrobe, if_pos h2]
  · rw [State.lDrive_noStrobe, h2]
    rfl

/-- Settles O57: the registers are those of an initialized state, and the outputs follow from them. -/
theorem resetStateValues : Obligations.ResetStateValues := by
  unfold Obligations.ResetStateValues
  obtain ⟨hso, hsk, hl⟩ := State.reset_outputs
  exact ⟨rfl, rfl, rfl, rfl, rfl, rfl, rfl, rfl, rfl, rfl, rfl, rfl, rfl, rfl, rfl, rfl, rfl, rfl, hso, hsk, hl⟩

/-- Settles O60: both memories are empty, and B = 0 fits the part. -/
theorem resetHasInv : Obligations.ResetHasInv :=
  ⟨Memory.wf_nil _, Memory.wf_nil _, rfl⟩

end Sys2Proof.Machine

/-! PROOFS. What a step can change of the two memories and of B; how ROM addresses are reduced; and from them the statements
of 20_memory.md. -/

namespace Sys2Proof.Machine

/-! ### The parts of the state that the memory statements speak of -/

/-- The configuration, both memories and B are the same. -/
structure SameMemory (s t : State) : Prop where
  cfg : t.cfg = s.cfg
  rom : t.rom = s.rom
  ram : t.ram = s.ram
  b : t.b = s.b

/-- What a step can change of them: RAM keeps its listed digits, loses them all, or takes one store inside the RAM of the
part; B keeps its value or is loaded with as many bits as the part has. Configuration and ROM stay. -/
structure MemoryEffect (s t : State) : Prop where
  cfg : t.cfg = s.cfg
  rom : t.rom = s.rom
  ram : t.ram = s.ram ∨ t.ram = [] ∨ ∃ i v, i < s.cfg.part.ramDigits ∧ t.ram = Memory.store s.ram i v
  b : t.b = s.b ∨ ∃ v, t.b = s.fitB v

section
variable {s t u : State}

theorem SameMemory.effect (h : SameMemory s t) : MemoryEffect s t := ⟨h.cfg, h.rom, .inl h.ram, .inl h.b⟩

/-- What leaves the memories alone may stand before an effect. -/
theorem MemoryEffect.after_same (h : MemoryEffect t u) (hst : SameMemory s t) : MemoryEffect s u where
  cfg := h.cfg.trans hst.cfg
  rom := h.rom.trans hst.rom
  ram := by simpa only [hst.cfg, hst.ram] using h.ram
  b := by simpa only [hst.b, State.fitB_congr hst.cfg] using h.b

/-- What leaves the memories alone may stand behind an effect. -/
theorem MemoryEffect.then_same (h : MemoryEffect s t) (htu : SameMemory t u) : MemoryEffect s u where
  cfg := htu.cfg.trans h.cfg
  rom := htu.rom.trans h.rom
  ram := by simpa only [htu.ram] using h.ram
  b := by simpa only [htu.b] using h.b

/-- The invariant is kept: a store inside the part's RAM leaves the list canonical, and a load of B fits the part. -/
theorem MemoryEffect.inv (h : MemoryEffect s t) (hs : s.Inv) : t.Inv := by
  obtain ⟨hram, hrom, hb⟩ := hs
  refine ⟨?_, ?_, ?_⟩
  · rw [h.cfg]
    obtain hr | hr | ⟨i, v, hi, hr⟩ := h.ram
    · rwa [hr]
    · rw [hr, Memory.wf_nil]
    · rw [hr]
      exact Memory.wf_store v hram hi
  · rwa [h.cfg, h.rom]
  · rw [State.fitB_congr h.cfg]
    obtain hb' | ⟨v, hb'⟩ := h.b
    · rwa [hb']
    · rw [hb', State.fitB_fitB]

end

section
variable {s t : State}

/-! ### Ticks, the interrupt and the fetch leave the memories alone -/

theorem State.timeBase_sameMemory (s : State) : SameMemory s s.timeBase :=
  ⟨s.timeBase_cfg, s.timeBase_rom, s.timeBase_ram, s.timeBase_b⟩

theorem State.ticks_sameMemory (camt : Bool) (n : Nat) (s : State) : SameMemory s (State.ticks camt n s) :=
  ⟨s.ticks_cfg camt n, s.ticks_rom camt n, s.ticks_ram camt n, s.ticks_b camt n⟩

theorem State.interrupt_sameMemory (s : State) : SameMemory s s.interrupt := by
  constructor <;> simp [State.interrupt]

theorem State.advance_sameMemory (s : State) (i : Instr) : SameMemory s (s.advance i) := ⟨rfl, rfl, rfl, rfl⟩

/-! ### An instruction's effect on the memories -/

/-- An instruction's effect stores at most one digit, at the address in B or at the r.d of XAD, and both lie inside the RAM
of the part (R73, R75). -/
theorem exec_ram {i : Instr} (h : exec i s = .next t) :
    t.ram = s.ram ∨ ∃ a v, a < s.cfg.part.ramDigits ∧ t.ram = Memory.store s.ram a v := by
  have hf := exec_frame h
  cases i
  case cqma | inl | rmb0 | rmb1 | rmb2 | rmb3 | smb0 | smb1 | smb2 | smb3 | stii | x | xds | xis =>
    cases h
    exact .inr ⟨s.ramAddr, _, s.ramAddr_lt, rfl⟩
  case ctma =>
    simp only [exec, execCtma] at h
    split at h <;> cases h <;> exact .inr ⟨s.ramAddr, _, s.ramAddr_lt, rfl⟩
  case xad r d =>
    simp only [exec, execXad] at h
    split at h
    · rename_i hr
      cases h
      exact .inr ⟨directAddr r d, _, s.directAddr_lt hr, rfl⟩
    · cases h
  case lqid =>
    obtain ⟨ht, -⟩ := hf
    exact .inl (by rw [ht])
  all_goals
    simp only [InstrFrame] at hf
    exact .inl (by rw [hf])

/-- An instruction's effect loads B only through `State.setB`, which fits the value to the part (R21). -/
theorem exec_b {i : Instr} (h : exec i s = .next t) : t.b = s.b ∨ ∃ v, t.b = s.fitB v := by
  have hf := exec_frame h
  cases i
  case ld | stii | x | xds | xis | cab | lbiShort | xabr =>
    cases h
    exact .inr ⟨_, rfl⟩
  case lbiLong =>
    simp only [exec, execLbiLong] at h
    split at h <;> cases h
    exact .inr ⟨_, rfl⟩
  case lqid =>
    obtain ⟨ht, -⟩ := hf
    exact .inl (by rw [ht])
  all_goals
    simp only [InstrFrame] at hf
    exact .inl (by rw [hf])

theorem exec_memoryEffect {i : Instr} (h : exec i s = .next t) : MemoryEffect s t := by
  obtain ⟨-, -, -, hcfg, hrom, -, -⟩ := exec_keeps h
  exact ⟨hcfg, hrom, (exec_ram h).imp_right .inr, exec_b h⟩

/-- Running an instruction has the effect of the instruction or none: the ticks around it leave the memories alone. -/
theorem runInstr_memoryEffect {i : Instr} (h : runInstr i s = .next t) : MemoryEffect s t := by
  obtain ⟨-, rfl⟩ | ⟨-, -, -, rfl⟩ | ⟨-, -, u, hu, rfl⟩ := runInstr_cases h
  · exact (State.ticks_sameMemory ..).effect.after_same ⟨rfl, rfl, rfl, rfl⟩
  · exact (State.ticks_sameMemory ..).effect
  · have before := State.ticks_sameMemory (s.pausesTimeBase i) (s.ticksBefore i) s
    have effect := (exec_memoryEffect hu).after_same ⟨before.cfg, before.rom, before.ram, before.b⟩
    exact effect.then_same (State.ticks_sameMemory ..)

/-! ### An event's effect on the memories -/

/-- The value 0 fits B of every part. -/
theorem State.fitB_zero (s : State) : s.fitB 0#7 = 0#7 := by
  unfold State.fitB
  split <;> rfl

theorem State.resetPin_memoryEffect (s : State) : MemoryEffect s s.resetPin :=
  ⟨rfl, rfl, .inl rfl, .inr ⟨0#7, s.fitB_zero.symm⟩⟩

/-- Power-up loses what RAM listed, and loads B with 0 or with an unknown value that fits the part (R300). -/
theorem State.powerUp_memoryEffect (s : State) : MemoryEffect s s.powerUp where
  cfg := s.powerUp_cfg
  rom := s.powerUp_rom
  ram := .inr (.inl s.powerUp_ram)
  b := by
    unfold State.powerUp
    split
    · exact .inr ⟨_, rfl⟩
    · exact s.resetPin_memoryEffect.b

theorem State.deliver_memoryEffect (s : State) (e : Event) : MemoryEffect s (s.deliver e) := by
  cases e
  case resetPin => exact s.resetPin_memoryEffect
  case powerUp => exact s.powerUp_memoryEffect
  case quiet | hostRead | clockStop | clockStart => exact SameMemory.effect ⟨rfl, rfl, rfl, rfl⟩
  case pulseIN0 | pulseIN1 | pulseIN2 | pulseIN3 | pulseSI =>
    exact SameMemory.effect ⟨s.takePulse_cfg, s.takePulse_rom, s.takePulse_ram, s.takePulse_b⟩
  case haltForce =>
    simp only [State.deliver, State.haltForce]
    split
    · exact SameMemory.effect ⟨s.requestHalt_cfg, s.requestHalt_rom, s.requestHalt_ram, s.requestHalt_b⟩
    · exact SameMemory.effect ⟨rfl, rfl, rfl, rfl⟩
  case continueRun | hostWrite =>
    simp only [State.deliver, State.continueRun, State.hostWrite]
    split <;> exact SameMemory.effect ⟨rfl, rfl, rfl, rfl⟩

/-! ### A step's effect on the memories -/

theorem machineStep_memoryEffect (h : machineStep s = .next t) : MemoryEffect s t := by
  obtain ⟨-, rfl⟩ | ⟨-, -, rfl⟩ | ⟨-, -, -, rfl⟩ | ⟨-, -, -, i, -, hrun⟩ := machineStep_cases h
  · exact SameMemory.effect ⟨rfl, rfl, rfl, rfl⟩
  · exact s.timeBase_sameMemory.effect
  · exact s.interrupt_sameMemory.effect
  · exact (runInstr_memoryEffect hrun).after_same (s.advance_sameMemory i)

/-- Every step, an event's or the machine's own, changes no more of the memories than `MemoryEffect` says. -/
theorem step_memoryEffect (h : step s = .next t) : MemoryEffect s t := by
  obtain ⟨e, rest, -, -, rfl⟩ | ⟨rest, -, hstep⟩ := step_cases h
  · exact (State.deliver_memoryEffect _ e).after_same ⟨rfl, rfl, rfl, rfl⟩
  · exact (machineStep_memoryEffect hstep).after_same ⟨rfl, rfl, rfl, rfl⟩

end

/-- Settles O58: a step's effect leaves ROM and configuration, which decide what every ROM word reads as (R89). -/
theorem romNeverChanges : Obligations.RomNeverChanges := by
  unfold Obligations.RomNeverChanges
  intro s t h
  have he := step_memoryEffect h
  exact ⟨he.rom, he.cfg, State.romRead_congr he.rom he.cfg, rfl⟩

/-- Settles O59: the invariant is kept by everything that a step can do to the memories and to B. -/
theorem stepKeepsInv : Obligations.StepKeepsInv := by
  unfold Obligations.StepKeepsInv
  exact fun _ _ hs h => (step_memoryEffect h).inv hs

/-! ### The RAM of the part -/

/-- RAM is `2 ^ BR_BITS` registers of 16 digits on every part (R2, R73). -/
theorem ramDigits_eq_registers (p : Part) : p.ramDigits = 2 ^ p.brBits * 16 := by
  unfold Part.ramDigits Part.brBits
  split <;> rfl

/-- Settles O20: the size of RAM, the address that the fields of B give, its bound, and read after write. -/
theorem ramAddressInRange : Obligations.RamAddressInRange := by
  unfold Obligations.RamAddressInRange
  exact fun s => ⟨ramDigits_eq_registers s.cfg.part, rfl, s.ramAddr_eq, s.ramAddr_lt, s.readDigit_writeDigit_same,
    fun _ _ v h => s.readDigit_writeDigit_other v h⟩

/-! ### The ROM of the part -/

section
variable {s : State} {i j : RomAddr}

/-- The reduction of ROM addresses, with the size of the ROM written out (R71). -/
theorem State.romIndex_eq (s : State) (i : RomAddr) :
    s.romIndex i = i.toNat % (if s.cfg.part.is2K then 2048 else 1024) := rfl

/-- On a 1K part the reduction is modulo 1024: bit 10 is ignored. -/
theorem State.romIndex_1K (h : s.cfg.part.is2K = false) (i : RomAddr) : s.romIndex i = i.toNat % 1024 := by
  simp [State.romIndex_eq, h]

/-- On a 2K part no address is reduced. -/
theorem State.romIndex_2K (h : s.cfg.part.is2K = true) (i : RomAddr) : s.romIndex i = i.toNat := by
  rw [State.romIndex_eq, if_pos h]
  exact Nat.mod_eq_of_lt i.isLt

/-- On a 2K part different addresses are different ROM words. -/
theorem State.romIndex_inj_2K (h : s.cfg.part.is2K = true) : s.romIndex j = s.romIndex i ↔ j = i := by
  rw [State.romIndex_2K h, State.romIndex_2K h, BitVec.toNat_inj]

/-- What is read depends on the reduced address alone. -/
theorem State.romRead_of_romIndex_eq (h : s.romIndex i = s.romIndex j) : s.romRead i = s.romRead j := by
  simp only [State.romRead, h]

/-- Addresses that reach the same ROM word of a 1K part are followed by addresses that do. -/
theorem State.romIndex_succ_1K (h : s.cfg.part.is2K = false) (hij : s.romIndex i = s.romIndex j) :
    s.romIndex (i + 1#11) = s.romIndex (j + 1#11) := by
  simp only [State.romIndex_1K h, BitVec.toNat_add, BitVec.toNat_ofNat] at hij ⊢
  omega

/-- The fetch depends on where PC and PC + 1 reach the ROM alone: the bytes and the page context are the same. -/
theorem State.fetch_of_romIndex_eq (h : s.romIndex i = s.romIndex j)
    (hsucc : s.romIndex (i + 1#11) = s.romIndex (j + 1#11)) :
    State.fetch { s with pc := i } = State.fetch { s with pc := j } := by
  have hbytes : State.fetchBytes { s with pc := i } = State.fetchBytes { s with pc := j } := by
    show [s.romRead i, s.romRead (i + 1#11)] = [s.romRead j, s.romRead (j + 1#11)]
    rw [State.romRead_of_romIndex_eq h, State.romRead_of_romIndex_eq hsucc]
  have hpage : State.pageContext { s with pc := i } = State.pageContext { s with pc := j } := by
    rw [Bool.eq_iff_iff, State.pageContext_iff, State.pageContext_iff]
    show _ ≤ s.romIndex (i + 1#11) ∧ s.romIndex (i + 1#11) ≤ _ ↔ _ ≤ s.romIndex (j + 1#11) ∧ s.romIndex (j + 1#11) ≤ _
    rw [hsucc]
  rw [State.fetch, State.fetch, hbytes, hpage]

/-- A programmed ROM word reads as what was programmed. -/
theorem State.romRead_programByte_same (s : State) (i : RomAddr) (v : Byte) : (s.programByte i v).romRead i = v := by
  have h : (s.programByte i v).romIndex i = s.romIndex i := rfl
  simp [State.romRead, h]

/-- Every other ROM word reads as before. -/
theorem State.romRead_programByte_other (v : Byte) (hj : s.romIndex j ≠ s.romIndex i) :
    (s.programByte i v).romRead j = s.romRead j := by
  have h : (s.programByte i v).romIndex j = s.romIndex j := rfl
  simp [State.romRead, h, Memory.lookup_store_other _ _ hj]

/-- Where a JP of pages 2 and 3 goes, as a number: the 128 words that PC stands in are kept (R162). -/
theorem jpPages23_target_toNat (pc : RomAddr) (a : BitVec 7) :
    (pc.extractLsb' 7 4 ++ a).toNat = pc.toNat / 128 * 128 + a.toNat := by
  have hpc := pc.isLt
  rw [append_toNat, BitVec.extractLsb'_toNat, Nat.shiftRight_eq_div_pow]
  omega

/-- A JP that stands before pages 2 and 3 of the ROM of the part goes to its word there, whatever bit 10 of PC is. -/
theorem State.romIndex_jpPages23_target {pc : RomAddr} (hlo : 0x080 ≤ s.romIndex pc) (hhi : s.romIndex pc ≤ 0x0FF)
    (a : BitVec 7) : s.romIndex (pc.extractLsb' 7 4 ++ a) = 0x080 + a.toNat := by
  have ha := a.isLt
  cases h : s.cfg.part.is2K with
  | false =>
    rw [State.romIndex_1K h] at hlo hhi ⊢
    rw [jpPages23_target_toNat]
    omega
  | true =>
    rw [State.romIndex_2K h] at hlo hhi ⊢
    rw [jpPages23_target_toNat]
    omega

end

/-- Settles O41: on 1K parts the reduction by 1024 decides the word, its successor and so the fetch; the other clauses are
the laws of ROM addresses and of the ROM. -/
theorem romAddressIsReduced : Obligations.RomAddressIsReduced := by
  unfold Obligations.RomAddressIsReduced
  intro s i j
  refine ⟨fun h1K hij => ?_, fun v => ⟨s.romRead_programByte_same i v, State.romRead_programByte_other v⟩,
    State.romIndex_inj_2K, s.romIndex_eq i, s.pageContext_iff,
    fun hlo hhi a => ⟨_, rfl, State.romIndex_jpPages23_target hlo hhi a⟩⟩
  have h : s.romIndex i = s.romIndex j := by
    rw [State.romIndex_1K h1K, State.romIndex_1K h1K, hij]
  exact ⟨State.romRead_of_romIndex_eq h, State.fetch_of_romIndex_eq h (State.romIndex_succ_1K h1K h)⟩

end Sys2Proof.Machine

/-! PROOFS. Encoder and decoder are inverse to each other: what the decoder makes of every encoding, and which bytes are an
encoding; how a step uses what it decodes; and from them the statements of 30_encoding.md. -/

namespace Sys2Proof

/-! ### The shape of an encoding -/

/-- The encoding of every instruction has the length that the fetch counts, and its first byte tells it (R100). -/
theorem encodedLength (i : Instr) : Laws.EncodedLength.Statement i := by
  cases i
  case aisc y => exact Laws.EncodedLength.aisc y
  case jmp a => exact Laws.EncodedLength.jmp a
  case jsr a => exact Laws.EncodedLength.jsr a
  case jpPages23 a => exact Laws.EncodedLength.jpPages23 a
  case jpPage a => exact Laws.EncodedLength.jpPage a
  case jsrp a => exact Laws.EncodedLength.jsrp a
  case ld r => exact Laws.EncodedLength.ld r
  case x r => exact Laws.EncodedLength.x r
  case xds r => exact Laws.EncodedLength.xds r
  case xis r => exact Laws.EncodedLength.xis r
  case stii y => exact Laws.EncodedLength.stii y
  case lbiShort r d => exact Laws.EncodedLength.lbiShort r d
  all_goals exact ⟨rfl, fun _ => rfl⟩

theorem encode_length (i : Instr) : (encode i).length = i.length := (encodedLength i).1

/-- An instruction has one byte or two (R100). -/
theorem Instr.length_eq_one_or_two (i : Instr) : i.length = 1 ∨ i.length = 2 := by
  cases i
  all_goals simp [Instr.length]

/-- An encoding is one byte that starts no two-byte instruction, or two bytes of which the first does (R100). -/
theorem encode_cases {i : Instr} (hwf : i.wf = true) :
    (∃ b, encode i = [b] ∧ isTwoByte b = false) ∨ ∃ b1 b2, encode i = [b1, b2] ∧ isTwoByte b1 = true := by
  obtain ⟨hlen, hfirst⟩ := encodedLength i
  replace hfirst := hfirst hwf
  obtain h1 | h2 := i.length_eq_one_or_two
  · rw [h1] at hlen hfirst
    obtain ⟨b, hb⟩ := List.length_eq_one_iff.1 hlen
    rw [hb] at hfirst
    exact .inl ⟨b, hb, hfirst⟩
  · rw [h2] at hlen hfirst
    obtain ⟨b1, b2, hb⟩ := List.length_eq_two.1 hlen
    rw [hb] at hfirst
    exact .inr ⟨b1, b2, hb, hfirst⟩

/-! ### The decoder on one and on two bytes -/

section
variable {in23 : Bool} {b b1 b2 : Byte}

theorem decode_oneByte (h : isTwoByte b = false) (rest : List Byte) :
    decode in23 (b :: rest) = .ok (decodeOne in23 b, rest) := by
  simp only [decode, h, Bool.false_eq_true, if_false]

theorem decode_twoBytes_ok {i : Instr} (h : isTwoByte b1 = true) (hd : decodeTwo b1 b2 = .ok i) (rest : List Byte) :
    decode in23 (b1 :: b2 :: rest) = .ok (i, rest) := by
  simp only [decode, h, hd, if_true]

theorem decode_twoBytes_error {e : DecodeError} (h : isTwoByte b1 = true) (hd : decodeTwo b1 b2 = .error e)
    (rest : List Byte) : decode in23 (b1 :: b2 :: rest) = .error e := by
  simp only [decode, h, hd, if_true]

theorem decode_secondByteMissing (h : isTwoByte b1 = true) : decode in23 [b1] = .error .endOfBytes := by
  simp only [decode, h, if_true]

end

/-! ### What each form of one byte decodes to (R101 to R108) -/

section
variable (in23 : Bool)

theorem decodeOne_aisc {y : Digit} (h : y ≠ 0#4) : decodeOne in23 (5#4 ++ y) = .aisc y := by
  revert in23 y
  decide

theorem decodeOne_stii (y : Digit) : decodeOne in23 (7#4 ++ y) = .stii y := by
  revert in23 y
  decide

theorem decodeOne_xis (r : BitVec 2) : decodeOne in23 (0b00#2 ++ r ++ 4#4) = .xis r := by
  revert in23 r
  decide

theorem decodeOne_ld (r : BitVec 2) : decodeOne in23 (0b00#2 ++ r ++ 5#4) = .ld r := by
  revert in23 r
  decide

theorem decodeOne_x (r : BitVec 2) : decodeOne in23 (0b00#2 ++ r ++ 6#4) = .x r := by
  revert in23 r
  decide

theorem decodeOne_xds (r : BitVec 2) : decodeOne in23 (0b00#2 ++ r ++ 7#4) = .xds r := by
  revert in23 r
  decide

/-- The one-byte LBI stores d - 1, which is in columns 8 to F for the operands it has (R104). -/
theorem decodeOne_lbiShort {r : BitVec 2} {d : Digit} (h : (Instr.lbiShort r d).wf = true) :
    decodeOne in23 (0b00#2 ++ r ++ (d - 1#4)) = .lbiShort r d := by
  revert in23 r d
  decide

/-- In pages 2 and 3 the bytes from 80 on are JP but for BF and FF (R106, R107). -/
theorem decodeOne_jpPages23 {a : BitVec 7} (h : (Instr.jpPages23 a).wf = true) :
    decodeOne true (1#1 ++ a) = .jpPages23 a := by
  revert a
  decide

/-- In the other pages the bytes from C0 to FE are JP (R106, R107). -/
theorem decodeOne_jpPage {a : BitVec 6} (h : (Instr.jpPage a).wf = true) : decodeOne false (0b11#2 ++ a) = .jpPage a := by
  revert a
  decide

/-- In the other pages the bytes from 80 to BE are JSRP (R106, R107). -/
theorem decodeOne_jsrp {a : BitVec 6} (h : (Instr.jsrp a).wf = true) : decodeOne false (0b10#2 ++ a) = .jsrp a := by
  revert a
  decide

end

/-- The decoder reads every one-byte instruction back: those with an operand by their form, the others by their code. -/
theorem decodeOne_encode {i : Instr} {in23 : Bool} {b : Byte} (hwf : i.wf = true) (hpage : i.fitsPage in23 = true)
    (he : encode i = [b]) : decodeOne in23 b = i := by
  cases i
  case aisc y =>
    cases he
    exact decodeOne_aisc in23 (by simpa [Instr.wf] using hwf)
  case stii y => cases he; exact decodeOne_stii in23 y
  case xis r => cases he; exact decodeOne_xis in23 r
  case ld r => cases he; exact decodeOne_ld in23 r
  case x r => cases he; exact decodeOne_x in23 r
  case xds r => cases he; exact decodeOne_xds in23 r
  case lbiShort r d => cases he; exact decodeOne_lbiShort in23 hwf
  case jpPages23 a =>
    have hin : in23 = true := hpage
    cases he
    rw [hin]
    exact decodeOne_jpPages23 hwf
  case jpPage a =>
    have hout : in23 = false := by simpa [Instr.fitsPage] using hpage
    cases he
    rw [hout]
    exact decodeOne_jpPage hwf
  case jsrp a =>
    have hout : in23 = false := by simpa [Instr.fitsPage] using hpage
    cases he
    rw [hout]
    exact decodeOne_jsrp hwf
  all_goals cases he <;> rfl

/-! ### What each form of two bytes decodes to (R103, R105, R108 to R110) -/

/-- The halves of an 11-bit address, as JMP and JSR hold them, make up the address (R105). -/
theorem addressHalves_append (a : RomAddr) : a.extractLsb' 8 3 ++ a.extractLsb' 0 8 = a :=
  BitVec.extractLsb'_append_extractLsb' (w := 3) (len := 8)

/-- The halves of a joined address. -/
theorem append_addressHalves (h : BitVec 3) (b2 : Byte) :
    (h ++ b2).extractLsb' 8 3 = h ∧ (h ++ b2).extractLsb' 0 8 = b2 := by
  rw [BitVec.extractLsb'_append_eq_of_le (by omega), BitVec.extractLsb'_append_eq_of_add_le (by omega)]
  exact ⟨BitVec.extractLsb'_eq_self, BitVec.extractLsb'_eq_self⟩

theorem decodeTwo_jmp (h : BitVec 3) (b2 : Byte) : decodeTwo (0b01100#5 ++ h) b2 = .ok (.jmp (h ++ b2)) := by
  have first : ∀ h : BitVec 3, (0b01100#5 ++ h == 0x33#8) = false ∧ (0b01100#5 ++ h == 0x23#8) = false
      ∧ (0b01100#5 ++ h).getLsbD 3 = false ∧ (0b01100#5 ++ h).extractLsb' 0 3 = h := by decide
  obtain ⟨h33, h23, hbit, hlow⟩ := first h
  simp only [decodeTwo, h33, h23, hbit, hlow, Bool.false_eq_true, if_false]

theorem decodeTwo_jsr (h : BitVec 3) (b2 : Byte) : decodeTwo (0b01101#5 ++ h) b2 = .ok (.jsr (h ++ b2)) := by
  have first : ∀ h : BitVec 3, (0b01101#5 ++ h == 0x33#8) = false ∧ (0b01101#5 ++ h == 0x23#8) = false
      ∧ (0b01101#5 ++ h).getLsbD 3 = true ∧ (0b01101#5 ++ h).extractLsb' 0 3 = h := by decide
  obtain ⟨h33, h23, hbit, hlow⟩ := first h
  simp only [decodeTwo, h33, h23, hbit, hlow, Bool.false_eq_true, if_false, if_true]

theorem decodeTwo_ldd (r : BitVec 3) (d : Digit) : decodeTwo 0x23#8 (0#1 ++ r ++ d) = .ok (.ldd r d) := by
  revert r d
  decide

theorem decodeTwo_xad (r : BitVec 3) (d : Digit) : decodeTwo 0x23#8 (1#1 ++ r ++ d) = .ok (.xad r d) := by
  revert r d
  decide

theorem decodeTwo_lbiLong (r : BitVec 3) (d : Digit) : decodeTwo 0x33#8 (1#1 ++ r ++ d) = .ok (.lbiLong r d) := by
  revert r d
  decide

theorem decodeTwo_ogi (y : Digit) : decodeTwo 0x33#8 (5#4 ++ y) = .ok (.ogi y) := by
  revert y
  decide

theorem decodeTwo_lei (y : Digit) : decodeTwo 0x33#8 (6#4 ++ y) = .ok (.lei y) := by
  revert y
  decide

/-- The decoder reads every two-byte instruction back: those with an operand by their form, the others by their code. -/
theorem decodeTwo_encode {i : Instr} {b1 b2 : Byte} (he : encode i = [b1, b2]) : decodeTwo b1 b2 = .ok i := by
  cases i
  case jmp a => cases he; rw [decodeTwo_jmp, addressHalves_append]
  case jsr a => cases he; rw [decodeTwo_jsr, addressHalves_append]
  case ldd r d => cases he; exact decodeTwo_ldd r d
  case xad r d => cases he; exact decodeTwo_xad r d
  case lbiLong r d => cases he; exact decodeTwo_lbiLong r d
  case ogi y => cases he; exact decodeTwo_ogi y
  case lei y => cases he; exact decodeTwo_lei y
  all_goals cases he <;> rfl

/-- Settles O33: an encoding has one byte or two, and each decoder reads its own back. -/
theorem decodeEncodeRoundTrip : Obligations.DecodeEncodeRoundTrip := by
  unfold Obligations.DecodeEncodeRoundTrip
  intro i in23 rest hwf hpage
  obtain ⟨b, he, hb⟩ | ⟨b1, b2, he, hb⟩ := encode_cases hwf
  · rw [he, List.singleton_append, decode_oneByte hb, decodeOne_encode hwf hpage he]
  · rw [he]
    exact decode_twoBytes_ok hb (decodeTwo_encode he) rest

/-- Settles O36: each word is the encoding of its instruction. -/
theorem sampleWordsDecode : Obligations.SampleWordsDecode := by
  unfold Obligations.SampleWordsDecode
  have reads := decodeEncodeRoundTrip
  exact ⟨reads .asc false [] rfl rfl, reads (.jmp 0x123#11) false [] rfl rfl, reads (.xad 3#3 15#4) false [] rfl rfl,
    reads (.lbiShort 1#2 15#4) false [] rfl rfl, reads .skgbz1 false [] rfl rfl, reads .xas false [] rfl rfl⟩

/-! ### Which bytes are an encoding (R100, R107 to R113) -/

/-- The bytes are the encoding of the well-formed instruction, which stands in its page context (R106, R113). -/
abbrev IsEncoding (in23 : Bool) (i : Instr) (bytes : List Byte) : Prop :=
  i.wf = true ∧ i.fitsPage in23 = true ∧ encode i = bytes

/-- The second bytes after 33 of the instructions that have no operand (R110). -/
abbrev fixedCodesAfter33 : List Nat :=
  [0x01, 0x03, 0x11, 0x13, 0x21, 0x28, 0x29, 0x2A, 0x2C, 0x2E, 0x2F, 0x38, 0x39, 0x3A, 0x3C, 0x3E, 0x3F]

/-- The instructions after 33 that have no operand, in the order of their codes. -/
def fixedAfter33 : List Instr :=
  [.skgbz0, .skgbz2, .skgbz1, .skgbz3, .skgz, .inin, .inil, .ing, .cqma, .inl, .ctma, .halt, .it, .omg, .camq, .obd, .camt]

/-- Table 3 lists the second byte after 33 (R110). -/
abbrev ListedAfter33 (b2 : Byte) : Prop :=
  b2.toNat ∈ fixedCodesAfter33 ∨ (0x50 ≤ b2.toNat ∧ b2.toNat ≤ 0x6F) ∨ 0x80 ≤ b2.toNat

/-- The rows of R108 as forms of a byte. -/
theorem byte_rows (b : Byte) :
    (∃ a : BitVec 7, b = 1#1 ++ a) ∨ (∃ (r : BitVec 2) (n : Digit), b = 0b00#2 ++ r ++ n)
      ∨ (∃ n : Digit, b = 4#4 ++ n) ∨ (∃ n : Digit, b = 5#4 ++ n) ∨ (∃ n : Digit, b = 6#4 ++ n)
      ∨ ∃ n : Digit, b = 7#4 ++ n := by
  have rows : ∀ b : Byte, b = 1#1 ++ b.extractLsb' 0 7 ∨ b = 0b00#2 ++ b.extractLsb' 4 2 ++ b.extractLsb' 0 4
      ∨ b = 4#4 ++ b.extractLsb' 0 4 ∨ b = 5#4 ++ b.extractLsb' 0 4 ∨ b = 6#4 ++ b.extractLsb' 0 4
      ∨ b = 7#4 ++ b.extractLsb' 0 4 := by decide
  obtain h | h | h | h | h | h := rows b
  · exact .inl ⟨_, h⟩
  · exact .inr (.inl ⟨_, _, h⟩)
  · exact .inr (.inr (.inl ⟨_, h⟩))
  · exact .inr (.inr (.inr (.inl ⟨_, h⟩)))
  · exact .inr (.inr (.inr (.inr (.inl ⟨_, h⟩))))
  · exact .inr (.inr (.inr (.inr (.inr ⟨_, h⟩))))

/-- The first bytes of two-byte instructions as forms of a byte (R100). -/
theorem isTwoByte_cases {b : Byte} (h : isTwoByte b = true) :
    b = 0x23#8 ∨ b = 0x33#8 ∨ (∃ h : BitVec 3, b = 0b01100#5 ++ h) ∨ ∃ h : BitVec 3, b = 0b01101#5 ++ h := by
  have forms : ∀ b : Byte, isTwoByte b = true → b = 0x23#8 ∨ b = 0x33#8
      ∨ b = 0b01100#5 ++ b.extractLsb' 0 3 ∨ b = 0b01101#5 ++ b.extractLsb' 0 3 := by decide
  exact (forms b h).imp_right (Or.imp_right (Or.imp (⟨_, ·⟩) (⟨_, ·⟩)))

/-- The bytes from 80 on: BF and FF are LQID and JID, the others JP or JSRP by the page (R106, R107). -/
theorem exists_encoding_high (in23 : Bool) (a : BitVec 7) : ∃ i, IsEncoding in23 i [1#1 ++ a] := by
  by_cases hBF : a = 0x3F#7
  · exact ⟨.lqid, rfl, rfl, by rw [hBF]; rfl⟩
  by_cases hFF : a = 0x7F#7
  · exact ⟨.jid, rfl, rfl, by rw [hFF]; rfl⟩
  cases in23 with
  | true => exact ⟨.jpPages23 a, by simp [Instr.wf, hBF, hFF], rfl, rfl⟩
  | false =>
    have outside : ∀ a : BitVec 7, a ≠ 0x3F#7 → a ≠ 0x7F#7 →
        IsEncoding false (.jpPage (a.extractLsb' 0 6)) [1#1 ++ a]
          ∨ IsEncoding false (.jsrp (a.extractLsb' 0 6)) [1#1 ++ a] := by decide
    obtain h | h := outside a hBF hFF
    · exact ⟨_, h⟩
    · exact ⟨_, h⟩

/-- Rows 0 to 3: LBI in columns 8 to F, XIS, LD, X and XDS in columns 4 to 7, and fixed codes in columns 0 to 3, where 23 and
33 start two-byte instructions. -/
theorem exists_encoding_low (in23 : Bool) (r : BitVec 2) (n : Digit) (h : isTwoByte (0b00#2 ++ r ++ n) = false) :
    ∃ i, IsEncoding in23 i [0b00#2 ++ r ++ n] := by
  by_cases hlbi : 8 ≤ n.toNat
  · have hd : ∀ n : Digit, 8 ≤ n.toNat → (n + 1#4 == 0#4 || 9 ≤ (n + 1#4).toNat) = true := by decide
    exact ⟨.lbiShort r (n + 1#4), hd n hlbi, rfl, by simp [encode]⟩
  by_cases h4 : n = 4#4
  · exact ⟨.xis r, rfl, rfl, by rw [h4]; rfl⟩
  by_cases h5 : n = 5#4
  · exact ⟨.ld r, rfl, rfl, by rw [h5]; rfl⟩
  by_cases h6 : n = 6#4
  · exact ⟨.x r, rfl, rfl, by rw [h6]; rfl⟩
  by_cases h7 : n = 7#4
  · exact ⟨.xds r, rfl, rfl, by rw [h7]; rfl⟩
  have corner : ∀ (in23 : Bool) (r : BitVec 2) (n : Digit), n.toNat < 4 → isTwoByte (0b00#2 ++ r ++ n) = false →
      IsEncoding in23 (decodeCorner (0b00#2 ++ r ++ n)) [0b00#2 ++ r ++ n] := by decide
  exact ⟨_, corner in23 r n (by bv_omega) h⟩

/-- Row 4: sixteen fixed codes. -/
theorem exists_encoding_row4 (in23 : Bool) (n : Digit) : ∃ i, IsEncoding in23 i [4#4 ++ n] := by
  have codes : ∀ (in23 : Bool) (n : Digit), IsEncoding in23 (decodeRow4 (4#4 ++ n)) [4#4 ++ n] := by decide
  exact ⟨_, codes in23 n⟩

/-- Row 5: AISC, and CAB in the place of AISC 0 (R112). -/
theorem exists_encoding_row5 (in23 : Bool) (n : Digit) : ∃ i, IsEncoding in23 i [5#4 ++ n] := by
  by_cases h : n = 0#4
  · exact ⟨.cab, rfl, rfl, by rw [h]; rfl⟩
  · exact ⟨.aisc n, by simp [Instr.wf, h], rfl, rfl⟩

/-- Every byte that starts no two-byte instruction is an encoding. -/
theorem exists_encoding_oneByte (in23 : Bool) {b : Byte} (h : isTwoByte b = false) : ∃ i, IsEncoding in23 i [b] := by
  obtain ⟨a, rfl⟩ | ⟨r, n, rfl⟩ | ⟨n, rfl⟩ | ⟨n, rfl⟩ | ⟨n, rfl⟩ | ⟨n, rfl⟩ := byte_rows b
  · exact exists_encoding_high in23 a
  · exact exists_encoding_low in23 r n h
  · exact exists_encoding_row4 in23 n
  · exact exists_encoding_row5 in23 n
  · have row6 : ∀ n : Digit, isTwoByte (6#4 ++ n) = true := by decide
    exact absurd h (by simp [row6 n])
  · exact ⟨.stii n, rfl, rfl, rfl⟩

/-- After 23: LDD and XAD, by bit 7 (R109). -/
theorem exists_encoding_after23 (in23 : Bool) (b2 : Byte) : ∃ i, IsEncoding in23 i [0x23#8, b2] := by
  have forms : ∀ b : Byte, 0#1 ++ b.extractLsb' 4 3 ++ b.extractLsb' 0 4 = b
      ∨ 1#1 ++ b.extractLsb' 4 3 ++ b.extractLsb' 0 4 = b := by decide
  obtain h | h := forms b2
  · exact ⟨.ldd (b2.extractLsb' 4 3) (b2.extractLsb' 0 4), rfl, rfl, by rw [encode, h]⟩
  · exact ⟨.xad (b2.extractLsb' 4 3) (b2.extractLsb' 0 4), rfl, rfl, by rw [encode, h]⟩

/-- After 33: the listed second bytes are fixed codes, OGI and LEI in rows 5 and 6, and LBI from 80 on (R110). -/
theorem exists_encoding_after33 (in23 : Bool) {b2 : Byte} (h : ListedAfter33 b2) :
    ∃ i, IsEncoding in23 i [0x33#8, b2] := by
  obtain hfixed | ⟨hlo, hhi⟩ | hhigh := h
  · have codes : ∀ n ∈ fixedCodesAfter33, ∃ i ∈ fixedAfter33, ∀ in23,
        IsEncoding in23 i [0x33#8, BitVec.ofNat 8 n] := by decide
    obtain ⟨i, -, hi⟩ := codes _ hfixed
    rw [BitVec.ofNat_toNat, BitVec.setWidth_eq] at hi
    exact ⟨i, hi in23⟩
  · have forms : ∀ b : Byte, 0x50 ≤ b.toNat → b.toNat ≤ 0x6F →
        5#4 ++ b.extractLsb' 0 4 = b ∨ 6#4 ++ b.extractLsb' 0 4 = b := by decide
    obtain h | h := forms b2 hlo hhi
    · exact ⟨.ogi (b2.extractLsb' 0 4), rfl, rfl, by rw [encode, h]⟩
    · exact ⟨.lei (b2.extractLsb' 0 4), rfl, rfl, by rw [encode, h]⟩
  · have form : ∀ b : Byte, 0x80 ≤ b.toNat → 1#1 ++ b.extractLsb' 4 3 ++ b.extractLsb' 0 4 = b := by decide
    exact ⟨.lbiLong (b2.extractLsb' 4 3) (b2.extractLsb' 0 4), rfl, rfl, by rw [encode, form b2 hhigh]⟩

/-- Every two bytes of which the first starts a two-byte instruction are an encoding, but for the unlisted ones after 33. -/
theorem exists_encoding_twoBytes (in23 : Bool) {b1 b2 : Byte} (h : isTwoByte b1 = true)
    (hlisted : b1 = 0x33#8 → ListedAfter33 b2) : ∃ i, IsEncoding in23 i [b1, b2] := by
  obtain rfl | rfl | ⟨hi, rfl⟩ | ⟨hi, rfl⟩ := isTwoByte_cases h
  · exact exists_encoding_after23 in23 b2
  · exact exists_encoding_after33 in23 (hlisted rfl)
  · obtain ⟨hhi, hlo⟩ := append_addressHalves hi b2
    exact ⟨.jmp (hi ++ b2), rfl, rfl, by rw [encode, hhi, hlo]⟩
  · obtain ⟨hhi, hlo⟩ := append_addressHalves hi b2
    exact ⟨.jsr (hi ++ b2), rfl, rfl, by rw [encode, hhi, hlo]⟩

/-- Two bytes at hand start with an encoding, unless they are 33 and an unlisted second byte. -/
theorem exists_encoding_atHead (in23 : Bool) {b1 b2 : Byte} (rest : List Byte) (hlisted : b1 = 0x33#8 → ListedAfter33 b2) :
    ∃ i rest', i.wf = true ∧ i.fitsPage in23 = true ∧ b1 :: b2 :: rest = encode i ++ rest' := by
  cases h : isTwoByte b1 with
  | false =>
    obtain ⟨i, hwf, hpage, he⟩ := exists_encoding_oneByte in23 h
    exact ⟨i, b2 :: rest, hwf, hpage, by rw [he]; rfl⟩
  | true =>
    obtain ⟨i, hwf, hpage, he⟩ := exists_encoding_twoBytes in23 h hlisted
    exact ⟨i, rest, hwf, hpage, by rw [he]; rfl⟩

/-! ### Which bytes are no instruction -/

/-- An unlisted second byte after 33 is in none of the decoder's rows and is none of its codes (R110, R111). -/
theorem decodeAfter33_unlisted {b2 : Byte} (h : ¬ ListedAfter33 b2) :
    decodeAfter33 b2 = .error (.undefinedSecondByte b2) := by
  have rows : ∀ b : Byte, ¬ ListedAfter33 b → b.getLsbD 7 = false ∧ (b.extractLsb' 4 4 == 5#4) = false
      ∧ (b.extractLsb' 4 4 == 6#4) = false := by decide
  obtain ⟨h7, h5, h6⟩ := rows b2 h
  simp only [decodeAfter33, h7, h5, h6, Bool.false_eq_true, if_false]
  split
  case h_18 => rfl
  all_goals
    rename_i hcode
    exact absurd (.inl (by rw [hcode]; decide)) h

theorem decode_unlisted (in23 : Bool) {b2 : Byte} (h : ¬ ListedAfter33 b2) (rest : List Byte) :
    decode in23 (0x33#8 :: b2 :: rest) = .error (.undefinedSecondByte b2) := by
  have hd : decodeTwo 0x33#8 b2 = .error (.undefinedSecondByte b2) := decodeAfter33_unlisted h
  exact decode_twoBytes_error rfl hd rest

/-- Bytes start with an encoding, or the decoder rejects them: there are none, the second is missing, or it is unlisted. -/
theorem encoding_or_error (in23 : Bool) (bytes : List Byte) :
    (∃ i rest, i.wf = true ∧ i.fitsPage in23 = true ∧ bytes = encode i ++ rest) ∨ ∃ e, decode in23 bytes = .error e := by
  match bytes with
  | [] => exact .inr ⟨_, rfl⟩
  | [b] =>
    cases h : isTwoByte b with
    | false =>
      obtain ⟨i, hwf, hpage, he⟩ := exists_encoding_oneByte in23 h
      exact .inl ⟨i, [], hwf, hpage, by rw [he]; rfl⟩
    | true => exact .inr ⟨_, decode_secondByteMissing h⟩
  | b1 :: b2 :: rest =>
    by_cases h : b1 = 0x33#8 → ListedAfter33 b2
    · exact .inl (exists_encoding_atHead in23 rest h)
    · obtain ⟨rfl, hunlisted⟩ := Classical.not_imp.1 h
      exact .inr ⟨_, decode_unlisted in23 hunlisted rest⟩

/-- Settles O34: bytes that decode start with an encoding, and the round trip says that it is what they decode to. -/
theorem decodedBytesAreTheEncoding : Obligations.DecodedBytesAreTheEncoding := by
  unfold Obligations.DecodedBytesAreTheEncoding
  intro in23 bytes rest i h
  obtain ⟨j, rest', hwf, hpage, rfl⟩ | ⟨e, he⟩ := encoding_or_error in23 bytes
  · rw [decodeEncodeRoundTrip j in23 rest' hwf hpage] at h
    cases h
    exact ⟨hwf, hpage, rfl⟩
  · rw [he] at h
    cases h

/-- Settles O35: all other two bytes start with an encoding, which the round trip decodes. -/
theorem onlyUnlistedSecondBytesFail : Obligations.OnlyUnlistedSecondBytesFail := by
  unfold Obligations.OnlyUnlistedSecondBytesFail
  intro in23 b1 b2 rest
  constructor
  · intro hfails
    by_contra hnot
    obtain ⟨i, rest', hwf, hpage, he⟩ := exists_encoding_atHead in23 rest
      (fun h33 => not_not.1 fun hunlisted => hnot ⟨h33, hunlisted⟩)
    exact hfails (i, rest') (by rw [he, decodeEncodeRoundTrip i in23 rest' hwf hpage])
  · rintro ⟨rfl, hunlisted⟩ p hp
    rw [decode_unlisted in23 hunlisted] at hp
    cases hp

end Sys2Proof

namespace Sys2Proof.Machine

/-! ### Where exec has a meaning -/

section
variable {s : State} {r : BitVec 3}

/-- A guarded effect completes exactly where its guard holds. -/
theorem completes_ite_iff {p : Prop} [Decidable p] {u : State} {stop : Result} (h : ∀ t, stop ≠ .next t) :
    (∃ t, (if p then Host.Outcome.next u else stop) = .next t) ↔ p := by
  by_cases hp : p
  · simp [hp]
  · simp [hp, h]

theorem execLdd_completes_iff (d : Digit) : (∃ t, execLdd r d s = .next t) ↔ s.hasRegister r = true :=
  completes_ite_iff fun _ => nofun

theorem execXad_completes_iff (d : Digit) : (∃ t, execXad r d s = .next t) ↔ s.hasRegister r = true :=
  completes_ite_iff fun _ => nofun

theorem execLbiLong_completes_iff (d : Digit) : (∃ t, execLbiLong r d s = .next t) ↔ s.hasRegister r = true :=
  completes_ite_iff fun _ => nofun

theorem execIt_completes_iff : (∃ t, execIt s = .next t) ↔ s.cfg.options.timer = .timeBase :=
  completes_ite_iff fun _ => nofun

theorem execInin_completes_iff : (∃ t, execInin s = .next t) ↔ s.hasIn = true :=
  completes_ite_iff fun _ => nofun

/-- CTMA has a meaning with and without the dual clock (R181, U7). -/
theorem execCtma_completes (s : State) : ∃ t, execCtma s = .next t := by
  unfold execCtma
  split
  · exact ⟨_, rfl⟩
  · exact ⟨_, rfl⟩

/-- A register that a 1K part lacks (R103). -/
theorem State.hasRegister_eq_false (h1K : s.cfg.part.is2K = false) (hr : 4 ≤ r.toNat) : s.hasRegister r = false := by
  simp [State.hasRegister, h1K, hr]

end

/-- Settles O31: the five instructions with a guard complete where it holds, and all others have a next state. -/
theorem execCompletesExactlyWhenDefined : Obligations.ExecCompletesExactlyWhenDefined := by
  unfold Obligations.ExecCompletesExactlyWhenDefined
  intro i s
  cases i
  case ldd r d => exact (execLdd_completes_iff d).trans (and_iff_left ⟨nofun, nofun⟩).symm
  case xad r d => exact (execXad_completes_iff d).trans (and_iff_left ⟨nofun, nofun⟩).symm
  case lbiLong r d => exact (execLbiLong_completes_iff d).trans (and_iff_left ⟨nofun, nofun⟩).symm
  case it => exact execIt_completes_iff.trans (by simp [Instr.fitsPart])
  case inin => exact execInin_completes_iff.trans (by simp [Instr.fitsPart])
  case ctma => exact iff_of_true (execCtma_completes s) ⟨rfl, nofun, nofun⟩
  all_goals exact iff_of_true ⟨_, rfl⟩ ⟨rfl, nofun, nofun⟩

/-- Settles O19: all three test the register before they do anything. -/
theorem registersA1KPartLacks : Obligations.RegistersA1KPartLacks := by
  unfold Obligations.RegistersA1KPartLacks
  intro s r d h1K hr
  have hlacks := State.hasRegister_eq_false h1K hr
  refine ⟨?_, ?_, ?_⟩
  · simp [exec, execLdd, hlacks]
  · simp [exec, execXad, hlacks]
  · simp [exec, execLbiLong, hlacks]

/-! ### How a step uses what it decodes -/

section
variable {s : State} {i : Instr}

theorem State.fetch_of_decode {rest : List Byte}
    (h : decode s.pageContext [s.romRead s.pc, s.romRead (s.pc + 1#11)] = .ok (i, rest)) : s.fetch = .ok i := by
  rw [State.fetch, State.fetchBytes, h]

theorem State.fetch_of_decode_error {e : DecodeError}
    (h : decode s.pageContext [s.romRead s.pc, s.romRead (s.pc + 1#11)] = .error e) : s.fetch = .error e := by
  rw [State.fetch, State.fetchBytes, h]

/-- A running machine stops on bytes that are no instruction (D15). -/
theorem step_of_running_error {e : DecodeError} (h : s.Running) (hf : s.fetch = .error e) :
    step s = .fault (.undefinedEncoding e) := by
  obtain ⟨he, hh, hi, ha⟩ := h
  simp [step, stepOnce, he, machineStep, hh, hi, ha, hf]

/-- A skipped instruction (R118). -/
theorem runInstr_of_skip (h : s.skip = true) :
    runInstr i s = .next (State.ticks false i.length { s with skip := false, lbiChain := false }) := by
  rw [runInstr, if_pos h]

/-- A chained LBI (R119). -/
theorem runInstr_of_chained (hs : s.skip = false) (hc : (s.lbiChain && i.isLbi) = true) :
    runInstr i s = .next (State.ticks false i.length s) := by
  simp [runInstr, hs, hc]

/-- An instruction that is neither skipped nor chained is executed (R117). -/
theorem runInstr_of_executed (hs : s.skip = false) (hc : (s.lbiChain && i.isLbi) = false) :
    runInstr i s = executeInstr i s := by
  simp [runInstr, hs, hc]

end

/-- Settles O37: the step executes the instruction from PC after it, in the default phase by `executeInstr_default`. -/
theorem stepRunsDecodedInstruction : Obligations.StepRunsDecodedInstruction := by
  unfold Obligations.StepRunsDecodedInstruction
  intro s i rest hrun hdecode hskip hchain
  have hstep : step s = executeInstr i (s.advance i) := by
    rw [step_of_running hrun (State.fetch_of_decode hdecode)]
    exact runInstr_of_executed hskip hchain
  refine ⟨fun hphase => ?_, ?_⟩
  · rw [hstep]
    exact executeInstr_default hphase
  · rw [hstep]
    rfl

/-- Settles O38: the skip comes before the LBI chain and the effect, and passes as many bytes as the encoding has. -/
theorem skippedInstructionIsPassedOver : Obligations.SkippedInstructionIsPassedOver := by
  unfold Obligations.SkippedInstructionIsPassedOver
  intro s i rest hrun hdecode hskip
  rw [encode_length, step_of_running hrun (State.fetch_of_decode hdecode)]
  exact runInstr_of_skip hskip

/-- Settles O39: both encodings are LBI for the chain, which the pass over leaves standing. -/
theorem chainedLbiIsPassedOver : Obligations.ChainedLbiIsPassedOver := by
  unfold Obligations.ChainedLbiIsPassedOver
  intro s i rest hrun hdecode hskip hchain hlbi
  have hchained : (s.lbiChain && i.isLbi) = true := by
    obtain ⟨r, d, rfl⟩ | ⟨r, d, rfl⟩ := hlbi
    · rw [hchain]; rfl
    · rw [hchain]; rfl
  rw [encode_length, step_of_running hrun (State.fetch_of_decode hdecode)]
  exact runInstr_of_chained hskip hchained

/-- Settles O40: the decoder rejects an unlisted second byte after 33, and the fetch comes before the skip. -/
theorem undefinedEncodingFaults : Obligations.UndefinedEncodingFaults := by
  unfold Obligations.UndefinedEncodingFaults
  intro s hrun h33 hunlisted
  have hdecode : decode s.pageContext [s.romRead s.pc, s.romRead (s.pc + 1#11)]
      = .error (.undefinedSecondByte (s.romRead (s.pc + 1#11))) := by
    rw [h33]
    exact decode_unlisted s.pageContext hunlisted []
  exact step_of_running_error hrun (State.fetch_of_decode_error hdecode)

end Sys2Proof.Machine

/-! PROOFS. What an encoding that stands in every page context decodes to, what an effect that leaves RAM alone stores, the
adder's results in the machine's state; and from them the statements of 41_arithmetic.md. -/

namespace Sys2Proof.Machine

/-! ### Rules for the statements about single instructions -/

/-- A well-formed instruction of every page context is encoded by its bytes: the round trip reads them back. -/
theorem encodedBy_of_encode {i : Instr} {bytes : List Byte} (he : encode i = bytes) (hwf : i.wf = true)
    (hpage : ∀ in23, i.fitsPage in23 = true) : EncodedBy bytes i := by
  intro in23 rest
  rw [← he]
  exact decodeEncodeRoundTrip i in23 rest hwf (hpage in23)

/-- An instruction's effect that leaves RAM alone stores nothing, since no effect changes the rest of what memory reads
depend on. -/
theorem exec_storesNothing {i : Instr} {s t : State} (h : exec i s = .next t) (hram : t.ram = s.ram) :
    StoresNothing s t := by
  obtain ⟨-, -, -, hcfg, hrom, hepoch, -⟩ := exec_keeps h
  exact storesNothing_of hram hepoch hrom hcfg

/-- An instruction's effect that leaves RAM alone changes only the registers of its frame. -/
theorem exec_registersOnly {i : Instr} {s t : State} (h : exec i s = .next t) (hram : t.ram = s.ram) :
    InstrFrame s t i ∧ StoresNothing s t :=
  ⟨exec_frame h, exec_storesNothing h hram⟩

/-- The skip latch after `if p then skip()`: it is set if it was or if the condition holds (R10). -/
theorem State.skipIf_skip_iff {s : State} {p : Bool} {q : Prop} (hp : p = true ↔ q) :
    (s.skipIf p).skip = true ↔ s.skip = true ∨ q := by
  rw [State.skipIf_skip, Bool.or_eq_true, hp]

/-! ### The adder without a carry in (R141 to R143) -/

theorem sumDigit_false_toNat (u v : Digit) : (sumDigit u v false).toNat = (u.toNat + v.toNat) % 16 :=
  sumDigit_toNat u v false

theorem sumCarry_false_iff (u v : Digit) : sumCarry u v false = true ↔ 16 ≤ u.toNat + v.toNat :=
  sumCarry_iff u v false

/-! ### The instructions -/

/-- What ASC and CASC share: the sum of a digit, M and C goes to A, its carry to C and to the skip latch (R140, R144). -/
theorem exec_addWithCarry {i : Instr} {s : State} {u : Digit}
    (h : exec i s = .next ({ s with a := sumDigit u s.m s.c, c := sumCarry u s.m s.c }.skipIf (sumCarry u s.m s.c))) :
    ∃ t, exec i s = .next t
      ∧ t.a.toNat = (u.toNat + s.m.toNat + s.c.toNat) % 16
      ∧ (t.c = true ↔ 16 ≤ u.toNat + s.m.toNat + s.c.toNat)
      ∧ (t.skip = true ↔ s.skip = true ∨ 16 ≤ u.toNat + s.m.toNat + s.c.toNat)
      ∧ t = { s with a := t.a, c := t.c, skip := t.skip } ∧ StoresNothing s t :=
  have hcarry := sumCarry_iff u s.m s.c
  ⟨_, h, sumDigit_toNat u s.m s.c, hcarry, State.skipIf_skip_iff hcarry, rfl, exec_storesNothing h rfl⟩

/-- Settles O1: both are one addition, of A and of its complement 15 - A. -/
theorem ascCascAddWithCarry : Obligations.AscCascAddWithCarry := by
  unfold Obligations.AscCascAddWithCarry
  refine ⟨encodedBy_of_encode rfl rfl fun _ => rfl, encodedBy_of_encode rfl rfl fun _ => rfl, rfl, rfl,
    fun s => ⟨?asc, ?casc⟩⟩
  case asc => exact exec_addWithCarry rfl
  case casc =>
    rw [← compDigit_toNat s.a]
    exact exec_addWithCarry rfl

/-- Settles O2: the adder without a carry in; only AISC passes the carry on, to the skip latch. -/
theorem addAdtAiscSums : Obligations.AddAdtAiscSums := by
  unfold Obligations.AddAdtAiscSums
  have aiscEncoded (y : Digit) (hy : y ≠ 0#4) : EncodedBy [5#4 ++ y] (.aisc y) :=
    encodedBy_of_encode rfl (bne_iff_ne.2 hy) fun _ => rfl
  refine ⟨encodedBy_of_encode rfl rfl fun _ => rfl, encodedBy_of_encode rfl rfl fun _ => rfl, aiscEncoded,
    rfl, rfl, fun _ => rfl, fun s => ⟨?add, ?adt, fun y => ?aisc⟩⟩
  case add => exact ⟨_, rfl, sumDigit_false_toNat s.a s.m, exec_registersOnly (i := .add) rfl rfl⟩
  case adt => exact ⟨_, rfl, sumDigit_false_toNat s.a 10#4, exec_registersOnly (i := .adt) rfl rfl⟩
  case aisc =>
    exact ⟨_, rfl, sumDigit_false_toNat s.a y, State.skipIf_skip_iff (sumCarry_false_iff s.a y),
      exec_registersOnly (i := .aisc y) rfl rfl⟩

/-- Settles O3: 0, the complement and the bitwise exclusive or, each in A alone. -/
theorem clraCompXorWriteA : Obligations.ClraCompXorWriteA := by
  unfold Obligations.ClraCompXorWriteA
  refine ⟨encodedBy_of_encode rfl rfl fun _ => rfl, encodedBy_of_encode rfl rfl fun _ => rfl,
    encodedBy_of_encode rfl rfl fun _ => rfl, rfl, rfl, rfl, fun s => ⟨?clra, ?comp, ?xor⟩⟩
  case clra => exact ⟨_, rfl, rfl, exec_registersOnly (i := .clra) rfl rfl⟩
  case comp => exact ⟨_, rfl, compDigit_toNat s.a, exec_registersOnly (i := .comp) rfl rfl⟩
  case xor => exact ⟨_, rfl, fun _ _ => BitVec.getLsbD_xor, exec_registersOnly (i := .xor) rfl rfl⟩

/-- Settles O4: NOP's effect is the state itself, and RC and SC write a constant to C. -/
theorem nopRcScResults : Obligations.NopRcScResults := by
  unfold Obligations.NopRcScResults
  refine ⟨encodedBy_of_encode rfl rfl fun _ => rfl, encodedBy_of_encode rfl rfl fun _ => rfl,
    encodedBy_of_encode rfl rfl fun _ => rfl, rfl, rfl, rfl, rfl, rfl, fun s => ⟨rfl, ?rc, ?sc⟩⟩
  case rc => exact ⟨_, rfl, rfl, exec_registersOnly (i := .rc) rfl rfl⟩
  case sc => exact ⟨_, rfl, rfl, exec_registersOnly (i := .sc) rfl rfl⟩

end Sys2Proof.Machine

/-! PROOFS. Jumps that keep the high bits of PC, the bytes of JP and JSRP in their page context, what a call pushes, what the
returns pop, and what a HALT request does under each option; and from them the statements of 42_transfer_of_control.md. -/

namespace Sys2Proof.Machine

/-! ### Jump targets -/

/-- A jump within a block of 2^n words keeps the block of the address and replaces the low n bits (R160, R162). -/
theorem replaceLowBits_toNat {w m n block : Nat} (hw : w = n + m) (hblock : block = 2 ^ n) (p : BitVec w)
    (a : BitVec n) :
    (p.extractLsb' n m ++ a).toNat = p.toNat / block * block + a.toNat := by
  have hhigh : p.toNat / 2 ^ n < 2 ^ m := by
    rw [Nat.div_lt_iff_lt_mul (Nat.two_pow_pos n), ← Nat.pow_add, Nat.add_comm m n, ← hw]
    exact p.isLt
  rw [append_toNat, BitVec.extractLsb'_toNat, Nat.shiftRight_eq_div_pow, Nat.mod_eq_of_lt hhigh, hblock]

/-- Pages 2 and 3 are one block of 128 words, the one that starts at 080 (R106). -/
theorem pages23_block {npc : RomAddr} (h : inPages23 npc = true) : npc.toNat / 128 * 128 = 0x080 := by
  have := (inPages23_iff npc).1 h
  omega

/-! ### The bytes of JP and JSRP (R106, R107) -/

theorem jpPages23_wf {a : BitVec 7} (h3F : a ≠ 0x3F#7) (h7F : a ≠ 0x7F#7) : (Instr.jpPages23 a).wf = true := by
  simp [Instr.wf, h3F, h7F]

/-- In pages 2 and 3 a byte of JSRP is the JP to the first of the two pages. -/
theorem decode_jsrpByte_pages23 {a : BitVec 6} (h : a ≠ 0x3F#6) (rest : List Byte) :
    decode true ((0b10#2 ++ a) :: rest) = .ok (.jpPages23 (0#1 ++ a), rest) := by
  have operand : ∀ a : BitVec 6, a ≠ 0x3F#6 →
      0#1 ++ a ≠ 0x3F#7 ∧ 0#1 ++ a ≠ 0x7F#7 ∧ 0b10#2 ++ a = 1#1 ++ (0#1 ++ a) := by decide
  obtain ⟨h3F, h7F, hbyte⟩ := operand a h
  rw [hbyte]
  exact decodeEncodeRoundTrip (.jpPages23 (0#1 ++ a)) true rest (jpPages23_wf h3F h7F) rfl

/-! ### Calls and returns -/

/-- What JSRP and JSR share: npc is pushed, and PC goes to the target (R163, R164). -/
theorem exec_call {i : Instr} {s : State} {target : RomAddr}
    (h : exec i s = .next { s.push s.pc with pc := target }) :
    ∃ t, exec i s = .next t ∧ t.pc = target ∧ t.sa = s.pc ∧ t.sb = s.sa ∧ t.sc = s.sb
      ∧ t = { s with pc := t.pc, sa := t.sa, sb := t.sb, sc := t.sc } ∧ StoresNothing s t :=
  ⟨_, h, rfl, rfl, rfl, rfl, rfl, exec_storesNothing h rfl⟩

/-- RET is the pop (R165). -/
theorem exec_ret (s : State) :
    exec .ret s = .next { s with pc := s.sa, sa := s.sb, sb := s.sc, skip := s.sskip, sskip := false } :=
  congrArg Host.Outcome.next s.pop_eq

/-- RETSK skips after the pop, whatever the pop restored (R166). -/
theorem exec_retsk (s : State) :
    exec .retsk s = .next { s with pc := s.sa, sa := s.sb, sb := s.sc, skip := true, sskip := false } := by
  simp only [exec, execRetsk, State.pop_eq, State.skipIf, Bool.or_true]

/-! ### HALT and IT -/

/-- A HALT request where D0 is no external clock input: HALT is entered (R268). -/
theorem State.requestHalt_of_noExternalClock {s : State} (h : s.cfg.options.dualClock ≠ .d0ExternalClock) :
    s.requestHalt = { s with halted := true } :=
  if_neg h

/-- A HALT request under option 30 = 2: a running D0 clock holds it off (R271, U14). -/
theorem State.requestHalt_of_externalClock {s : State} (h : s.cfg.options.dualClock = .d0ExternalClock) :
    s.requestHalt = { s.takeSample with halted := s.halted || !s.sample.d0Clock } :=
  if_pos h

/-- IT with the time-base counter (R168). -/
theorem exec_it_of_timeBase {s : State} (h : s.cfg.options.timer = .timeBase) :
    exec .it s = .next { s with idle := true } :=
  if_pos h

/-- IT with the event counter (R312, U6). -/
theorem exec_it_of_eventCounter {s : State} (h : s.cfg.options.timer = .eventCounter) :
    exec .it s = .fault .idleWithEventCounter :=
  if_neg (by simp [h])

/-! ### The instructions -/

/-- Settles O5: the table word replaces the low eight bits of PC. -/
theorem jidJumpsThroughTable : Obligations.JidJumpsThroughTable := by
  unfold Obligations.JidJumpsThroughTable
  refine ⟨encodedBy_of_encode rfl rfl fun _ => rfl, rfl, rfl, fun s => ?_⟩
  rw [← s.tableAddr_eq]
  exact ⟨_, rfl, replaceLowBits_toNat (m := 3) (block := 256) rfl rfl s.pc (s.romRead s.tableAddr),
    exec_registersOnly (i := .jid) rfl rfl⟩

/-- Settles O6: both forms of JP replace the low bits of npc, seven in pages 2 and 3 and six in the other pages; their
bytes are read back in their own page context. -/
theorem jmpJpTargets : Obligations.JmpJpTargets := by
  unfold Obligations.JmpJpTargets
  refine ⟨fun a => ⟨encodedBy_of_encode rfl rfl fun _ => rfl, rfl⟩, fun a rest h3F h7F => ⟨?pages23Byte, rfl⟩,
    fun a rest h3F => ⟨?pageByte, rfl⟩, inPages23_iff, fun s => ⟨fun a => ?jmp, fun a => ?jpPages23, fun a => ?jpPage⟩⟩
  case pages23Byte => exact decodeEncodeRoundTrip (.jpPages23 a) true rest (jpPages23_wf h3F h7F) rfl
  case pageByte => exact decodeEncodeRoundTrip (.jpPage a) false rest (bne_iff_ne.2 h3F) rfl
  case jmp => exact ⟨_, rfl, rfl, exec_registersOnly (i := .jmp a) rfl rfl⟩
  case jpPages23 =>
    have htarget := replaceLowBits_toNat (m := 4) (block := 128) rfl rfl s.pc a
    exact ⟨_, rfl, htarget, fun hin => htarget.trans (congrArg (· + a.toNat) (pages23_block hin)),
      exec_registersOnly (i := .jpPages23 a) rfl rfl⟩
  case jpPage =>
    exact ⟨_, rfl, replaceLowBits_toNat (m := 5) (block := 64) rfl rfl s.pc a,
      exec_registersOnly (i := .jpPage a) rfl rfl⟩

/-- Settles O7: a call to page 2, whose bytes are JSRP outside pages 2 and 3 and JP inside them. -/
theorem jsrpCallsPage2 : Obligations.JsrpCallsPage2 := by
  unfold Obligations.JsrpCallsPage2
  refine ⟨fun a rest h => ⟨?outside, decode_jsrpByte_pages23 h rest, rfl⟩, fun s a => ?call⟩
  case outside => exact decodeEncodeRoundTrip (.jsrp a) false rest (bne_iff_ne.2 h) rfl
  case call =>
    obtain ⟨t, hexec, hpc, hrest⟩ := exec_call (i := .jsrp a) (s := s) rfl
    exact ⟨t, hexec, by rw [hpc]; exact append_toNat _ a, hrest⟩

/-- Settles O8: JSR runs with PC = npc, which is what it pushes. -/
theorem jsrPushesNpc : Obligations.JsrPushesNpc := by
  unfold Obligations.JsrPushesNpc
  exact ⟨fun a => ⟨encodedBy_of_encode rfl rfl fun _ => rfl, rfl⟩, fun s a => exec_call rfl⟩

/-- Settles O9: both are the pop; RETSK overrules the skip status that it restores. -/
theorem retRetskPop : Obligations.RetRetskPop := by
  unfold Obligations.RetRetskPop
  refine ⟨encodedBy_of_encode rfl rfl fun _ => rfl, encodedBy_of_encode rfl rfl fun _ => rfl, rfl, rfl,
    fun s => ⟨?ret, ?retsk⟩⟩
  case ret => exact ⟨_, exec_ret s, rfl, rfl, rfl, rfl, rfl, rfl, exec_storesNothing (exec_ret s) rfl⟩
  case retsk => exact ⟨_, exec_retsk s, rfl, rfl, rfl, rfl, rfl, rfl, exec_storesNothing (exec_retsk s) rfl⟩

/-- Settles O10: HALT is the request, whose branch option 30 decides; IT's branch is decided by option 31. -/
theorem haltItStopTheMachine : Obligations.HaltItStopTheMachine := by
  unfold Obligations.HaltItStopTheMachine
  refine ⟨encodedBy_of_encode rfl rfl fun _ => rfl, rfl, encodedBy_of_encode rfl rfl fun _ => rfl, rfl, fun s =>
    ⟨fun hclock => ?halt, fun hclock => ?haltExternalClock, fun htimer => ?it, exec_it_of_eventCounter⟩⟩
  case halt =>
    have hexec : exec .halt s = .next { s with halted := true } :=
      congrArg Host.Outcome.next (State.requestHalt_of_noExternalClock hclock)
    exact ⟨_, hexec, rfl, rfl, exec_storesNothing hexec rfl⟩
  case haltExternalClock =>
    have hexec : exec .halt s = .next { s.takeSample with halted := s.halted || !s.sample.d0Clock } :=
      congrArg Host.Outcome.next (State.requestHalt_of_externalClock hclock)
    exact ⟨_, hexec, by simp, rfl, exec_storesNothing hexec rfl⟩
  case it =>
    have hexec := exec_it_of_timeBase htimer
    exact ⟨_, hexec, rfl, rfl, exec_storesNothing hexec rfl⟩

end Sys2Proof.Machine

/-! PROOFS. Which values of Br fit the part, what one store and the copy to M and A leave, the exchange of A with M that X,
XDS and XIS share, and the timer under CAMT; and from them the statements of 43_memory_reference.md. -/

namespace Sys2Proof.Machine

/-! ### Values of Br that fit the part (R21, R103) -/

section
variable {s t : State}

/-- On a 1K part Br has two bits. -/
theorem State.br_fits (h : s.cfg.part.is2K = false) : s.br &&& 3#3 = s.br := by
  have masked : ∀ v : BitVec 7, (v &&& 0x3F#7).extractLsb' 4 3 &&& 3#3 = (v &&& 0x3F#7).extractLsb' 4 3 := by decide
  simpa [State.br, State.regB, State.fitB, h] using masked s.b

/-- The exclusive or with a two-bit r does not reach Br[2] (R103). -/
theorem State.br_xor_fits (h : s.cfg.part.is2K = false) (r : BitVec 2) :
    (s.br ^^^ zextR r) &&& 3#3 = s.br ^^^ zextR r := by
  have keeps : ∀ (u : BitVec 3) (r : BitVec 2), u &&& 3#3 = u → (u ^^^ zextR r) &&& 3#3 = u ^^^ zextR r := by decide
  exact keeps s.br r (State.br_fits h)

/-- A load of both fields of B leaves in Br a value that fits the part. -/
theorem State.br_setBrBd_of_fits {r : BitVec 3} (d : Digit) (h : t.cfg.part.is2K = false → r &&& 3#3 = r) :
    (t.setBrBd r d).br = r := by
  rw [State.br_setBrBd]
  split
  · rfl
  · rename_i h1K
    exact h (Bool.eq_false_iff.2 h1K)

/-- Br after a load of the old Br, exclusive-ored with r: the numbers are combined the same way on every part. -/
theorem State.br_setBrBd_xor_toNat (hcfg : t.cfg = s.cfg) (r : BitVec 2) (d : Digit) :
    (t.setBrBd (s.br ^^^ zextR r) d).br.toNat = s.br.toNat ^^^ r.toNat := by
  have operand : ∀ r : BitVec 2, (zextR r).toNat = r.toNat := by decide
  rw [State.br_setBrBd_of_fits d fun h => State.br_xor_fits (by rwa [hcfg] at h) r, BitVec.toNat_xor, operand r]

end

/-! ### Steps of Bd (R189, R192, R193) -/

theorem digit_add_one_toNat (d : Digit) : (d + 1#4).toNat = (d.toNat + 1) % 16 := by
  simp

theorem digit_sub_one_toNat (d : Digit) : (d - 1#4).toNat = (d.toNat + 15) % 16 := by
  simp [Nat.add_comm]

theorem decrementsPast0_iff (d : Digit) : decrementsPast0 d = true ↔ d.toNat = 0 :=
  beq_iff_eq.trans BitVec.toNat_inj.symm

theorem incrementsPast15_iff (d : Digit) : incrementsPast15 d = true ↔ d.toNat = 15 :=
  beq_iff_eq.trans BitVec.toNat_inj.symm

/-! ### One store -/

/-- An instruction's effect whose RAM is the old one with one store stores only there, since no effect changes the rest of
what memory reads depend on. -/
theorem exec_storesOnly {i : Instr} {s t : State} {addr : Nat} {v : Digit} (h : exec i s = .next t)
    (hram : t.ram = Memory.store s.ram addr v) : StoresOnly addr v s t := by
  obtain ⟨-, -, -, hcfg, hrom, hepoch, -⟩ := exec_keeps h
  exact storesOnly_of hram hepoch hrom hcfg

/-- What CTMA and CQMA share: an 8-bit quantity goes to M and A, its high half to M (R78). -/
theorem exec_copyToMA {i : Instr} {s : State} {v : Byte} (h : exec i s = .next (s.setMA v)) :
    ∃ t, exec i s = .next t ∧ t.a.toNat = v.toNat % 16
      ∧ StoresOnly s.ramAddr (BitVec.ofNat 4 (v.toNat / 16)) s t ∧ t = { s with a := t.a, ram := t.ram } := by
  rw [← hiDigit_eq]
  exact ⟨_, h, loDigit_toNat v, exec_storesOnly h rfl, rfl⟩

/-- What RMB and SMB share: M is stored with bit n replaced (R187, R188). -/
theorem exec_replaceBit {i : Instr} {s : State} {v : Digit} {n : Nat} {bit : Bool} (h : exec i s = .next (s.setM v))
    (hbit : ∀ k < 4, v.getLsbD k = if k = n then bit else s.m.getLsbD k) :
    ∃ t v, exec i s = .next t ∧ (∀ k < 4, v.getLsbD k = if k = n then bit else s.m.getLsbD k)
      ∧ StoresOnly s.ramAddr v s t ∧ t = { s with ram := t.ram } :=
  ⟨_, v, h, hbit, exec_storesOnly h rfl, rfl⟩

/-! ### The exchange of A with M -/

/-- What X, XDS and XIS leave but for the skip latch: A and M exchanged at the old B, Br exclusive-ored with r, and `d` in
Bd. -/
def State.exchange (s : State) (r : BitVec 2) (d : Digit) : State :=
  { (s.setM s.a).setBrBd (s.br ^^^ zextR r) d with a := s.m }

section
variable (s : State) (r : BitVec 2) (d : Digit)

theorem exec_x : exec (.x r) s = .next (s.exchange r s.bd) := rfl

theorem exec_xds :
    exec (.xds r) s = .next ((s.exchange r (s.bd - 1#4)).skipIf (decrementsPast0 s.bd)) := rfl

theorem exec_xis :
    exec (.xis r) s = .next ((s.exchange r (s.bd + 1#4)).skipIf (incrementsPast15 s.bd)) := rfl

theorem State.exchange_ram : (s.exchange r d).ram = Memory.store s.ram s.ramAddr s.a := rfl

theorem State.exchange_br_toNat : (s.exchange r d).br.toNat = s.br.toNat ^^^ r.toNat :=
  State.br_setBrBd_xor_toNat (t := s.setM s.a) rfl r d

theorem State.exchange_bd : (s.exchange r d).bd = d :=
  (s.setM s.a).bd_setBrBd _ d

end

/-- What XDS and XIS share: the exchange, and the skip by a test of the old Bd (R192, R193). -/
theorem exec_exchangeSkip {i : Instr} {s : State} {r : BitVec 2} {d : Digit} {p : Bool} {bdNext bdSkips : Nat}
    (h : exec i s = .next ((s.exchange r d).skipIf p)) (hd : d.toNat = bdNext)
    (hp : p = true ↔ s.bd.toNat = bdSkips) :
    ∃ t, exec i s = .next t ∧ t.a = s.m ∧ StoresOnly s.ramAddr s.a s t
      ∧ t.br.toNat = s.br.toNat ^^^ r.toNat ∧ t.bd.toNat = bdNext
      ∧ (t.skip = true ↔ s.skip = true ∨ s.bd.toNat = bdSkips)
      ∧ t = { s with a := t.a, ram := t.ram, b := t.b, skip := t.skip } :=
  ⟨_, h, rfl, exec_storesOnly h (s.exchange_ram r d), s.exchange_br_toNat r d,
    (congrArg BitVec.toNat (s.exchange_bd r d)).trans hd, State.skipIf_skip_iff (s := s.exchange r d) hp, rfl⟩

/-! ### The direct operand r.d -/

section
variable {s : State} {r : BitVec 3}

theorem exec_ldd_of_hasRegister (d : Digit) (h : s.hasRegister r = true) :
    exec (.ldd r d) s = .next { s with a := s.readDigit (directAddr r d) } :=
  if_pos h

theorem exec_xad_of_hasRegister (d : Digit) (h : s.hasRegister r = true) :
    exec (.xad r d) s = .next { s.writeDigit (directAddr r d) s.a with a := s.readDigit (directAddr r d) } :=
  if_pos h

end

/-! ### The timer under CAMT and CTMA -/

/-- Bit 7 of a byte says that the byte is at least 128. -/
theorem byte_bit7_iff (v : Byte) : v.getLsbD 7 = true ↔ 128 ≤ v.toNat := by
  rw [← BitVec.msb_eq_getLsbD_last (x := v), BitVec.msb_eq_decide, decide_eq_true_iff]

/-- Cycles that leave the time base alone leave its count (R266). -/
theorem State.ticks_true_count10 (n : Nat) (s : State) : (State.ticks true n s).count10 = s.count10 := by
  induction n generalizing s with
  | zero => rfl
  | succ n ih =>
    obtain ⟨ht, htp, -, -⟩ := s.serial_timeBaseFields
    rw [State.ticks, ih, State.tick_true, State.count10, ht, htp, State.count10]

/-- CAMT's own cycles leave the time base alone, unless `TICK_PHASE` has them count (D11, entry 19). -/
theorem State.pausesTimeBase_camt {s : State} (h : s.cfg.params.tickPhase.camtTicks = false) :
    s.pausesTimeBase .camt = true := by
  simp [State.pausesTimeBase, Instr.isCamt, h]

theorem exec_ctma_of_normalClock {s : State} (h : s.cfg.options.dualClock = .normal) :
    exec .ctma s = .next (s.setMA s.t) :=
  if_pos h

theorem exec_ctma_of_dualClock {s : State} (h : s.cfg.options.dualClock ≠ .normal) :
    exec .ctma s = .next (s.takeFree.setMA (Config.ctmaByte s.freeIndex)) :=
  if_neg h

/-! ### The push and the pop of LQID -/

/-- LQID's pop takes back what its push stored, so that of the stack only SC changes (R186). -/
theorem exec_lqid (s : State) : exec .lqid s = .next
    ({ s with q := s.romRead s.tableAddr, sc := s.sb }.restoreSkipIf s.cfg.params.lqidPopRestoresSkip) := rfl

/-! ### The instructions -/

/-- Settles O13: LD reads M at the old B and then changes Br; LDD reads at r.d, where the part has register r. -/
theorem ldLddLoadA : Obligations.LdLddLoadA := by
  unfold Obligations.LdLddLoadA
  refine ⟨fun r => ⟨encodedBy_of_encode rfl rfl fun _ => rfl, rfl⟩,
    fun r d => ⟨encodedBy_of_encode rfl rfl fun _ => rfl, rfl⟩, fun s => ⟨fun r => ?ld, fun r d hr => ?ldd⟩⟩
  case ld =>
    exact ⟨_, rfl, rfl, State.br_setBrBd_xor_toNat (t := s) rfl r s.bd, s.bd_setBrBd _ s.bd,
      exec_registersOnly (i := .ld r) rfl rfl⟩
  case ldd =>
    have hexec := exec_ldd_of_hasRegister d ((s.hasRegister_iff r).2 hr)
    exact ⟨_, hexec, rfl, exec_registersOnly hexec rfl⟩

/-- Settles O15: each of the eight stores M with one bit replaced. -/
theorem rmbSmbChangeOneBit : Obligations.RmbSmbChangeOneBit := by
  unfold Obligations.RmbSmbChangeOneBit
  refine ⟨encodedBy_of_encode rfl rfl fun _ => rfl, encodedBy_of_encode rfl rfl fun _ => rfl,
    encodedBy_of_encode rfl rfl fun _ => rfl, encodedBy_of_encode rfl rfl fun _ => rfl,
    encodedBy_of_encode rfl rfl fun _ => rfl, encodedBy_of_encode rfl rfl fun _ => rfl,
    encodedBy_of_encode rfl rfl fun _ => rfl, encodedBy_of_encode rfl rfl fun _ => rfl, fun p hp => ?_⟩
  simp only [List.mem_cons, List.not_mem_nil, or_false] at hp
  obtain rfl | rfl | rfl | rfl | rfl | rfl | rfl | rfl := hp
  · exact ⟨rfl, fun s => exec_replaceBit rfl fun _ => resetBit_getLsbD s.m (n := 0) (by decide)⟩
  · exact ⟨rfl, fun s => exec_replaceBit rfl fun _ => resetBit_getLsbD s.m (n := 1) (by decide)⟩
  · exact ⟨rfl, fun s => exec_replaceBit rfl fun _ => resetBit_getLsbD s.m (n := 2) (by decide)⟩
  · exact ⟨rfl, fun s => exec_replaceBit rfl fun _ => resetBit_getLsbD s.m (n := 3) (by decide)⟩
  · exact ⟨rfl, fun s => exec_replaceBit rfl fun _ => setBit_getLsbD s.m (n := 0) (by decide)⟩
  · exact ⟨rfl, fun s => exec_replaceBit rfl fun _ => setBit_getLsbD s.m (n := 1) (by decide)⟩
  · exact ⟨rfl, fun s => exec_replaceBit rfl fun _ => setBit_getLsbD s.m (n := 2) (by decide)⟩
  · exact ⟨rfl, fun s => exec_replaceBit rfl fun _ => setBit_getLsbD s.m (n := 3) (by decide)⟩

/-- Settles O16: the store is at the old B, and the old Br fits the part. -/
theorem stiiStoresAndIncrements : Obligations.StiiStoresAndIncrements := by
  unfold Obligations.StiiStoresAndIncrements
  refine ⟨fun y => ⟨encodedBy_of_encode rfl rfl fun _ => rfl, rfl⟩, fun s y => ?_⟩
  have hbd : ((s.setM y).setBrBd s.br (s.bd + 1#4)).bd = s.bd + 1#4 := State.bd_setBrBd ..
  have hbr : ((s.setM y).setBrBd s.br (s.bd + 1#4)).br = s.br := State.br_setBrBd_of_fits _ State.br_fits
  exact ⟨_, rfl, exec_storesOnly (i := .stii y) rfl rfl, by rw [hbd, digit_add_one_toNat], hbr, rfl⟩

/-- Settles O17: all three are the exchange at the old B; the skips are tests of the old Bd. -/
theorem exchangesStepB : Obligations.ExchangesStepB := by
  unfold Obligations.ExchangesStepB
  refine ⟨fun r => ⟨encodedBy_of_encode rfl rfl fun _ => rfl, encodedBy_of_encode rfl rfl fun _ => rfl,
    encodedBy_of_encode rfl rfl fun _ => rfl, rfl, rfl, rfl⟩, fun s r => ⟨?x, ?xds, ?xis⟩⟩
  case x =>
    exact ⟨_, exec_x s r, rfl, exec_storesOnly (exec_x s r) (s.exchange_ram r s.bd), s.exchange_br_toNat r s.bd,
      s.exchange_bd r s.bd, rfl⟩
  case xds => exact exec_exchangeSkip (exec_xds s r) (digit_sub_one_toNat s.bd) (decrementsPast0_iff s.bd)
  case xis => exact exec_exchangeSkip (exec_xis s r) (digit_add_one_toNat s.bd) (incrementsPast15_iff s.bd)

/-- Settles O11: CAMT joins A and M and tests the old T[7]; its cycles leave the count alone. CTMA copies T, or under the
dual clock a free byte, to M and A. -/
theorem camtCtmaTimerCopies : Obligations.CamtCtmaTimerCopies := by
  unfold Obligations.CamtCtmaTimerCopies
  refine ⟨encodedBy_of_encode rfl rfl fun _ => rfl, encodedBy_of_encode rfl rfl fun _ => rfl, rfl, rfl,
    fun s => ⟨?camt, fun hclock => exec_copyToMA (exec_ctma_of_normalClock hclock), fun hclock => ?ctmaDualClock⟩⟩
  case camt =>
    have htov : (s.tov || s.t.getLsbD 7) = true ↔ s.tov = true ∨ 128 ≤ s.t.toNat := by
      rw [Bool.or_eq_true, byte_bit7_iff]
    refine ⟨_, rfl, joinDigits_toNat s.a s.m, rfl, htov, rfl, exec_storesNothing (i := .camt) rfl rfl, fun hphase n => ?_⟩
    rw [State.pausesTimeBase_camt hphase, State.ticks_true_count10]
  case ctmaDualClock =>
    have hexec := exec_ctma_of_dualClock hclock
    rw [← hiDigit_eq]
    exact ⟨_, hexec, loDigit_toNat _, exec_storesOnly hexec rfl, rfl⟩

/-- Settles O12: A and M joined are Q, which EN[2] shows on the L lines; the way back is the copy to M and A. -/
theorem camqCqmaCopies : Obligations.CamqCqmaCopies := by
  unfold Obligations.CamqCqmaCopies
  refine ⟨encodedBy_of_encode rfl rfl fun _ => rfl, encodedBy_of_encode rfl rfl fun _ => rfl, rfl, rfl,
    fun s => ⟨?camq, exec_copyToMA rfl⟩⟩
  case camq =>
    exact ⟨_, rfl, joinDigits_toNat s.a s.m, fun hen => State.lDrive_noStrobe.trans (if_pos hen),
      exec_registersOnly (i := .camq) rfl rfl⟩

/-- Settles O14: the push and the pop together move SB to SC; the parameter decides what becomes of the saved skip. -/
theorem lqidLoadsQ : Obligations.LqidLoadsQ := by
  unfold Obligations.LqidLoadsQ
  refine ⟨encodedBy_of_encode rfl rfl fun _ => rfl, rfl, rfl, fun s => ?_⟩
  rw [← s.tableAddr_eq]
  exact ⟨_, exec_lqid s, rfl, rfl, fun hp => by simp [hp], fun hp => by simp [hp], rfl,
    exec_storesNothing (exec_lqid s) rfl⟩

/-- Settles O18: the exchange of A with the digit at r.d, where the part has register r. -/
theorem xadExchangesDirect : Obligations.XadExchangesDirect := by
  unfold Obligations.XadExchangesDirect
  refine ⟨fun r d => ⟨encodedBy_of_encode rfl rfl fun _ => rfl, rfl⟩, fun s r d hr => ?_⟩
  have hexec := exec_xad_of_hasRegister d ((s.hasRegister_iff r).2 hr)
  exact ⟨_, hexec, rfl, exec_storesOnly hexec rfl, rfl⟩

end Sys2Proof.Machine

/-! PROOFS. Which loads of B the part holds whole, what CAB and both forms of LBI share, Br under the exchange with A, and the
outputs under a new EN; and from them the statements of 44_register_reference.md. -/

namespace Sys2Proof.Machine

/-! ### Loads of B (R210, R212) -/

/-- Zero-extension by one bit keeps the number. -/
theorem zero_append_toNat {n : Nat} (v : BitVec n) : (0#1 ++ v).toNat = v.toNat := by
  rw [append_toNat, BitVec.toNat_ofNat, Nat.zero_mod, Nat.zero_mul, Nat.zero_add]

section
variable {s : State} {r : BitVec 3}

/-- The two-bit r of the one-byte LBI fits Br of every part (R103). -/
theorem zextR_fits (r : BitVec 2) : zextR r &&& 3#3 = zextR r := by
  revert r
  decide

/-- On a 1K part the registers that it has are those whose number fits Br (R103, R111). -/
theorem State.fits_of_hasRegister (hr : s.hasRegister r = true) (h1K : s.cfg.part.is2K = false) : r &&& 3#3 = r := by
  have small : ∀ r : BitVec 3, r.toNat < 4 → r &&& 3#3 = r := by decide
  exact small r (((s.hasRegister_iff r).1 hr).resolve_left (by simp [h1K]))

theorem exec_lbiLong_of_hasRegister (d : Digit) (h : s.hasRegister r = true) :
    exec (.lbiLong r d) s = .next (s.setBrBd r d) :=
  if_pos h

/-- What CAB and both forms of LBI share: a load of B alone, with a value of Br that fits the part. -/
theorem exec_loadB {i : Instr} {d : Digit} (h : exec i s = .next (s.setBrBd r d))
    (hfits : s.cfg.part.is2K = false → r &&& 3#3 = r) :
    ∃ t, exec i s = .next t ∧ t.br = r ∧ t.bd = d ∧ t = { s with b := t.b } ∧ StoresNothing s t :=
  ⟨_, h, State.br_setBrBd_of_fits d hfits, s.bd_setBrBd r d, rfl, exec_storesNothing h rfl⟩

/-- Columns 8 to F hold the d of the one-byte LBI less 1: its operands are 9 to 15 and 0 (R104). -/
theorem encodedBy_lbiShort (r : BitVec 2) {n : Digit} (hn : 8 ≤ n.toNat) :
    EncodedBy [0b00#2 ++ r ++ n] (.lbiShort r (n + 1#4)) := by
  have operand : ∀ n : Digit, 8 ≤ n.toNat → (n + 1#4 == 0#4 || 9 ≤ (n + 1#4).toNat) = true := by decide
  exact encodedBy_of_encode (by rw [encode, BitVec.add_sub_cancel]) (operand n hn) fun _ => rfl

end

/-! ### The exchange of A with Br (R214) -/

/-- Br after a load from a digit: as many low bits of the digit as the part's Br has. -/
theorem State.br_setBrBd_lowBits_toNat (s : State) (v d : Digit) :
    (s.setBrBd (v.extractLsb' 0 3) d).br.toNat = v.toNat % 2 ^ s.cfg.part.brBits := by
  have lowBits : ∀ v : Digit, (v.extractLsb' 0 3).toNat = v.toNat % 2 ^ 3
      ∧ (v.extractLsb' 0 3 &&& 3#3).toNat = v.toNat % 2 ^ 2 := by decide
  obtain ⟨three, two⟩ := lowBits v
  rw [State.br_setBrBd, Part.brBits]
  split
  · exact three
  · exact two

/-! ### The outputs under a new EN (R213) -/

section
variable {s : State}

theorem exec_lei (s : State) (y : Digit) : exec (.lei y) s = .next { s with en := y } := rfl

theorem State.lDrive_of_en2 (h : s.en.getLsbD 2 = true) : s.lDrive false = some s.q :=
  State.lDrive_noStrobe.trans (if_pos h)

theorem State.lDrive_of_not_en2 (h : s.en.getLsbD 2 = false) : s.lDrive false = none :=
  State.lDrive_noStrobe.trans (if_neg (Bool.eq_false_iff.1 h))

/-- SO in the shift mode is bit 3 of SIO, gated by EN[3] (R276). -/
theorem State.soDrive_shiftMode_and (h : s.en.getLsbD 0 = false) :
    s.soDrive = (s.en.getLsbD 3 && s.sio.getLsbD 3) := by
  simp [State.soDrive_shiftMode h]

end

/-! ### The instructions -/

/-- Settles O21: CAB is a load of B whose Br is the old one; XABR loads as many low bits of A as Br
has, and A takes Br behind a 0. -/
theorem cabCbaXabrTransfers : Obligations.CabCbaXabrTransfers := by
  unfold Obligations.CabCbaXabrTransfers
  refine ⟨encodedBy_of_encode rfl rfl fun _ => rfl, encodedBy_of_encode rfl rfl fun _ => rfl,
    encodedBy_of_encode rfl rfl fun _ => rfl, rfl, rfl, rfl, rfl, fun s => ⟨?cab, ?cba, ?xabr⟩⟩
  case cab =>
    obtain ⟨t, hexec, hbr, hbd, hframe⟩ := exec_loadB (i := .cab) rfl (State.br_fits (s := s))
    exact ⟨t, hexec, hbd, hbr, hframe⟩
  case cba => exact ⟨_, rfl, rfl, exec_registersOnly (i := .cba) rfl rfl⟩
  case xabr =>
    exact ⟨_, rfl, s.br_setBrBd_lowBits_toNat s.a s.bd, zero_append_toNat s.br, s.bd_setBrBd _ s.bd,
      exec_registersOnly (i := .xabr) rfl rfl⟩

/-- Settles O22: both forms are a load of B; the r of the one-byte form fits every part, and that of the two-byte form where
the part has register r. -/
theorem lbiLoadsB : Obligations.LbiLoadsB := by
  unfold Obligations.LbiLoadsB
  refine ⟨fun r n hn => ⟨encodedBy_lbiShort r hn, rfl⟩, fun r d => ⟨encodedBy_of_encode rfl rfl fun _ => rfl, rfl⟩,
    fun s => ⟨fun r d => ?short, fun r d hr => ?long⟩⟩
  case short =>
    obtain ⟨t, hexec, hbr, hrest⟩ := exec_loadB (i := .lbiShort r d) (s := s) rfl fun _ => zextR_fits r
    exact ⟨t, hexec, by rw [hbr, zextR, zero_append_toNat], hrest⟩
  case long =>
    have hregister := (s.hasRegister_iff r).2 hr
    exact exec_loadB (exec_lbiLong_of_hasRegister d hregister) (State.fits_of_hasRegister hregister)

/-- Settles O23: LEI's effect is the state with the new EN, and each output is read off it in the mode that EN selects. -/
theorem leiLoadsEn : Obligations.LeiLoadsEn := by
  unfold Obligations.LeiLoadsEn
  exact ⟨fun y => ⟨encodedBy_of_encode rfl rfl fun _ => rfl, rfl⟩, fun s y =>
    ⟨_, exec_lei s y, rfl, rfl, fun hq => State.lDrive_of_en2 hq, fun hoff => State.lDrive_of_not_en2 hoff,
      fun hcounter => ⟨State.soDrive_counterMode hcounter, State.skDrive_counterMode hcounter⟩,
      fun hshift => State.soDrive_shiftMode_and hshift,
      fun hshift hlow => State.skDrive_shiftMode_low hshift hlow,
      fun hshift hskl hrun => State.skDrive_shiftMode_clock hshift hskl hrun,
      exec_storesNothing (exec_lei s y) rfl⟩⟩

end Sys2Proof.Machine

/-! PROOFS. What the instructions that set the skip latch on a condition share, and the bit that SKMBZ n and SKGBZ n test; and
from them the statements of 45_test.md. -/

namespace Sys2Proof.Machine

/-! ### The conditional skip -/

theorem bitIsZero_iff (v : Digit) (n : Nat) : bitIsZero v n = true ↔ v.getLsbD n = false := by
  rw [bitIsZero, Bool.not_eq_true']

/-- What the test instructions share: a skip by a condition (R10), made in a state `u` that differs from `s` neither in RAM nor
in the skip latch. -/
theorem exec_skipIf {i : Instr} {s u : State} {p : Bool} {q : Prop} (h : exec i s = .next (u.skipIf p))
    (hram : u.ram = s.ram) (hskip : u.skip = s.skip) (hp : p = true ↔ q) :
    ∃ t, exec i s = .next t ∧ (t.skip = true ↔ s.skip = true ∨ q)
      ∧ t = { u with skip := t.skip } ∧ StoresNothing s t := by
  rw [← hskip]
  exact ⟨_, h, State.skipIf_skip_iff hp, rfl, exec_storesNothing h ((u.skipIf_ram p).trans hram)⟩

/-- SKMBZ n tests bit n of M (R224). -/
theorem exec_skmbz (s : State) : ∀ p ∈ [(Instr.skmbz0, 0), (.skmbz1, 1), (.skmbz2, 2), (.skmbz3, 3)],
    exec p.1 s = .next (s.skipIf (bitIsZero s.m p.2)) :=
  List.forall_iff_forall_mem.1 ⟨rfl, rfl, rfl, rfl⟩

/-- SKGBZ n takes a sample of the pins and tests bit n of its G (R223, D16). -/
theorem exec_skgbz (s : State) : ∀ p ∈ [(Instr.skgbz0, 0), (.skgbz1, 1), (.skgbz2, 2), (.skgbz3, 3)],
    exec p.1 s = .next (s.takeSample.skipIf (bitIsZero s.sample.g p.2)) :=
  List.forall_iff_forall_mem.1 ⟨rfl, rfl, rfl, rfl⟩

/-! ### The instructions -/

/-- Settles O24: each is a conditional skip of the state itself, by C, by the comparison of A with M, or by a bit of M. -/
theorem skcSkeSkmbzSkip : Obligations.SkcSkeSkmbzSkip := by
  unfold Obligations.SkcSkeSkmbzSkip
  refine ⟨encodedBy_of_encode rfl rfl fun _ => rfl, encodedBy_of_encode rfl rfl fun _ => rfl,
    encodedBy_of_encode rfl rfl fun _ => rfl, encodedBy_of_encode rfl rfl fun _ => rfl,
    encodedBy_of_encode rfl rfl fun _ => rfl, encodedBy_of_encode rfl rfl fun _ => rfl, by decide,
    fun s => ⟨?skc, ?ske, fun p hp => ?skmbz⟩⟩
  case skc => exact exec_skipIf (u := s) rfl rfl rfl Iff.rfl
  case ske => exact exec_skipIf (u := s) rfl rfl rfl beq_iff_eq
  case skmbz => exact exec_skipIf (u := s) (exec_skmbz s p hp) rfl rfl (bitIsZero_iff s.m p.2)

/-- Settles O25: the skip is by the old TOV, which is 0 afterwards whether it was set or not. -/
theorem sktTestsAndResetsTov : Obligations.SktTestsAndResetsTov := by
  unfold Obligations.SktTestsAndResetsTov
  refine ⟨encodedBy_of_encode rfl rfl fun _ => rfl, rfl, fun s => ?_⟩
  exact ⟨_, rfl, rfl, State.skipIf_skip_iff (s := { s with tov := false }) Iff.rfl,
    exec_registersOnly (i := .skt) rfl rfl⟩

/-- Settles O26: each is a conditional skip of the state that has taken one sample, by what the sample shows on the G pins. -/
theorem skgzSkgbzTestPins : Obligations.SkgzSkgbzTestPins := by
  unfold Obligations.SkgzSkgbzTestPins
  refine ⟨encodedBy_of_encode rfl rfl fun _ => rfl, encodedBy_of_encode rfl rfl fun _ => rfl,
    encodedBy_of_encode rfl rfl fun _ => rfl, encodedBy_of_encode rfl rfl fun _ => rfl,
    encodedBy_of_encode rfl rfl fun _ => rfl, by decide, fun s => ⟨?skgz, fun p hp => ?skgbz⟩⟩
  case skgz => exact exec_skipIf (u := s.takeSample) rfl s.takeSample_ram s.takeSample_skip beq_iff_eq
  case skgbz =>
    exact exec_skipIf (exec_skgbz s p hp) s.takeSample_ram s.takeSample_skip (bitIsZero_iff s.sample.g p.2)

end Sys2Proof.Machine

/-! PROOFS. Which I/O lines each package has and what a line shows, the digit that INIL delivers and what it takes from the
environment; and from them the statements of 46_input_output.md. -/

namespace Sys2Proof.Machine

/-! ### The I/O lines of a package (R2, R230) -/

section
variable {c : Config}

/-- A 20-pin package has no IN pins (R6). -/
theorem hasIn_eq_false_of_is20Pin (h : c.is20Pin = true) : c.hasIn = false := by
  rw [Config.hasIn, Part.hasIn, Bool.and_eq_false_iff]
  obtain hpart | hbonding := (is20Pin_iff c).1 h
  · left
    rw [hpart]
    rfl
  · right
    rw [hbonding]
    rfl

theorem ioLines_of_is20Pin (h : c.is20Pin = true) : ioLines c = lines20 := by
  rw [ioLines, hasIn_eq_false_of_is20Pin h, h]
  rfl

theorem ioLines_nodup (c : Config) : (ioLines c).Nodup := by
  obtain ⟨-, h⟩ | ⟨-, -, h⟩ | ⟨-, -, h⟩ := ioLines_cases c <;> rw [h]
  · decide
  · exact lines20_sublist.nodup commonLines_nodup
  · exact commonLines_nodup

theorem ioLines_length (c : Config) : (ioLines c).length = if c.hasIn then 23 else if c.is20Pin then 15 else 19 := by
  obtain ⟨hin, h⟩ | ⟨hin, h20, h⟩ | ⟨hin, h20, h⟩ := ioLines_cases c
  · rw [h, hin]
    rfl
  · rw [h, hin, h20]
    exact lines20_length
  · rw [h, hin, h20]
    rfl

/-- The line counts of R2 belong to the package that the part number names. -/
theorem ioLineCount_eq (p : Part) : p.ioLineCount = if p.hasIn then 23 else if p.pins == 20 then 15 else 19 := by
  cases p <;> rfl

/-- Bonded for 28 pins, a chip has the package of its part number. -/
theorem ioLines_length_of_pins28 (h : c.options.bonding = .pins28) : (ioLines c).length = c.part.ioLineCount := by
  have hin : c.hasIn = c.part.hasIn := by rw [Config.hasIn, h, Bonding.has28, Bool.and_true]
  have h20 : c.is20Pin = (c.part.pins == 20) := by
    rw [Config.is20Pin, h]
    exact Bool.or_false _
  rw [ioLines_length, ioLineCount_eq, hin, h20]

/-- Only IN3 to IN0 can be missing on a package with more than 20 pins (R2). -/
theorem mem_ioLines_or_inp (h : c.is20Pin = false) (line : IoLine) : line ∈ ioLines c ∨ ∃ k, line = .inp k := by
  have common : line ∈ commonLines ∨ ∃ k, line = .inp k := by
    cases line
    case inp k => exact .inr ⟨k, rfl⟩
    case g k | d k | l k =>
      left
      revert k
      decide
    case si | so | sk => exact .inl (by decide)
  refine common.imp_left fun hline => ?_
  obtain ⟨-, hlines⟩ | ⟨-, h20, -⟩ | ⟨-, -, hlines⟩ := ioLines_cases c
  · rw [hlines]
    exact List.mem_append_right _ hline
  · exact absurd h20 (by simp [h])
  · rwa [hlines]

theorem inp_notMem_commonLines : ∀ k, IoLine.inp k ∉ commonLines := by decide

theorem inp_mem_ioLines_iff (c : Config) (k : Fin 4) : .inp k ∈ ioLines c ↔ c.hasIn = true := by
  obtain ⟨hin, h⟩ | ⟨hin, -, h⟩ | ⟨hin, -, h⟩ := ioLines_cases c <;> rw [h, hin]
  · have inputs : ∀ k, IoLine.inp k ∈ inputLines := by decide
    exact iff_of_true (List.mem_append_left _ (inputs k)) rfl
  · exact iff_of_false (fun hk => inp_notMem_commonLines k (lines20_sublist.subset hk)) Bool.false_ne_true
  · exact iff_of_false (inp_notMem_commonLines k) Bool.false_ne_true

end

/-! ### What a line shows (R52) -/

section
variable (s : State) (readStrobe : Bool)

theorem State.pin_eq_absent_iff (line : IoLine) : s.pin readStrobe line = .absent ↔ line ∉ ioLines s.cfg :=
  ite_eq_right_iff.trans
    ⟨fun h hline => s.drive_ne_absent readStrobe line (h hline), fun h hline => absurd hline h⟩

theorem State.drive_d (k : Fin 4) : s.drive readStrobe (.d k) =
    if k = 0 ∧ s.cfg.options.dualClock ≠ .normal then .undriven else .level (s.d.getLsbD k) := by
  simp only [State.drive, State.dDrive, Fin.val_eq_zero_iff, apply_ite LineOutput.ofOption]
  rfl

theorem State.drive_l (k : Fin 8) : s.drive readStrobe (.l k) =
    if s.en.getLsbD 2 = true ∨ s.cfg.options.microbus = true ∧ readStrobe = true
      then .level (s.q.getLsbD k) else .undriven := by
  simp only [State.drive, State.lDrive, Bool.or_eq_true, Bool.and_eq_true, apply_ite (Option.map _),
    apply_ite LineOutput.ofOption]
  rfl

end

/-! ### INIL (R232) -/

/-- The digit that INIL puts into A: IL3, CKO, 0 and IL0. -/
def State.ilDigit (s : State) : Digit :=
  BitVec.ofBool s.ilLatches.1 ++ BitVec.ofBool s.ilCko ++ 0#1 ++ BitVec.ofBool s.ilLatches.2

section
variable {s : State}

theorem exec_inil (s : State) : exec .inil s = .next { s.takeInil with a := s.ilDigit, il3 := false, il0 := false } := rfl

theorem State.ilDigit_bits (s : State) :
    s.ilDigit.getLsbD 3 = s.ilLatches.1 ∧ s.ilDigit.getLsbD 2 = s.ilCko ∧ s.ilDigit.getLsbD 1 = false
      ∧ s.ilDigit.getLsbD 0 = s.ilLatches.2 := by
  unfold State.ilDigit
  generalize s.ilLatches.1 = il3, s.ilCko = cko, s.ilLatches.2 = il0
  revert il3 cko il0
  decide

theorem State.ilCko_of_input (h : s.cfg.options.cko = .inputWithLoad ∨ s.cfg.options.cko = .inputHighZ) :
    s.ilCko = s.sample.cko := by
  obtain h | h := h <;> rw [State.ilCko, State.ckoIsInput, h] <;> rfl

theorem State.ilCko_of_output (h : s.cfg.options.cko = .clockOutput ∨ s.cfg.options.cko = .haltPort) : s.ilCko = true := by
  obtain h | h := h <;> rw [State.ilCko, State.ckoIsInput, h] <;> rfl

theorem State.ilLatches_of_hasIn (h : s.hasIn = true) : s.ilLatches = (s.il3, s.il0) := if_pos h

/-- A sample and a free value both use up one number. -/
theorem State.takeInil_freeIndex (s : State) : s.takeInil.freeIndex = s.freeIndex + 1 := by
  unfold State.takeInil
  split <;> rfl

end

/-! ### The instructions -/

/-- Settles O27: the inputs read the sample that they take; the lines of a chip are those of one of three packages, and a line
that is there shows what drives it. -/
theorem inputsReadPins : Obligations.InputsReadPins := by
  unfold Obligations.InputsReadPins
  refine ⟨encodedBy_of_encode rfl rfl fun _ => rfl, encodedBy_of_encode rfl rfl fun _ => rfl,
    encodedBy_of_encode rfl rfl fun _ => rfl, rfl, rfl, rfl, fun s => ⟨s.hasIn_iff, ?ing, fun hin => ?inin,
    fun hin => ?ininRefused, ?inl, ioLines_nodup s.cfg, ioLines_length_of_pins28, ⟨?count, fun h20 => ?more, fun h20 => ?lacks⟩,
    inp_mem_ioLines_iff s.cfg, s.pin_eq_absent_iff, fun readStrobe line hline => ?shows⟩⟩
  case ing => exact ⟨_, rfl, rfl, rfl, exec_storesNothing (i := .ing) rfl rfl⟩
  case inin =>
    have hexec : exec .inin s = .next { s.takeSample with a := s.sample.inp } := if_pos hin
    exact ⟨_, hexec, rfl, rfl, exec_storesNothing hexec rfl⟩
  case ininRefused => exact if_neg (Bool.eq_false_iff.1 hin)
  case inl =>
    rw [← hiDigit_eq]
    exact ⟨_, rfl, loDigit_toNat s.sample.l, exec_storesOnly (i := .inl) rfl rfl, rfl⟩
  case count => exact (ioLines_length s.cfg).trans (if_congr Iff.rfl rfl (if_congr (is20Pin_iff s.cfg) rfl rfl))
  case more => exact mem_ioLines_or_inp (Bool.eq_false_iff.2 fun h => h20 ((is20Pin_iff s.cfg).1 h))
  case lacks =>
    rw [ioLines_of_is20Pin ((is20Pin_iff s.cfg).2 h20)]
    exact lines20_lacks_g
  case shows =>
    rw [State.pin_of_mem hline]
    cases line
    case d k => exact s.drive_d readStrobe k
    case l k => exact s.drive_l readStrobe k
    case inp | g | si | so | sk => rfl

/-- Settles O28: the bits of the digit that INIL delivers, each by the option or the pins that it depends on. -/
theorem inilReadsAndClearsIl : Obligations.InilReadsAndClearsIl := by
  unfold Obligations.InilReadsAndClearsIl
  refine ⟨encodedBy_of_encode rfl rfl fun _ => rfl, rfl, fun s => ?_⟩
  obtain ⟨bit3, bit2, bit1, bit0⟩ := s.ilDigit_bits
  have hexec := exec_inil s
  rw [s.takeInil_frame, s.takeInil_freeIndex] at hexec
  refine ⟨_, hexec, bit1, fun hcko => bit2.trans (State.ilCko_of_input hcko),
    fun hcko => bit2.trans (State.ilCko_of_output hcko), fun hin => ?latches, rfl, rfl, rfl, exec_storesNothing hexec rfl⟩
  case latches =>
    rw [State.ilLatches_of_hasIn hin] at bit3 bit0
    exact ⟨bit3, bit0⟩

/-- Settles O29: each writes one output register, and the D drivers show D but for D0 as an oscillator input. -/
theorem obdOgiOmgOutputs : Obligations.ObdOgiOmgOutputs := by
  unfold Obligations.ObdOgiOmgOutputs
  refine ⟨encodedBy_of_encode rfl rfl fun _ => rfl, fun _ => encodedBy_of_encode rfl rfl fun _ => rfl,
    encodedBy_of_encode rfl rfl fun _ => rfl, rfl, fun _ => rfl, rfl, fun s => ⟨?obd, fun y => ?ogi, ?omg⟩⟩
  case obd => exact ⟨_, rfl, rfl, rfl, exec_storesNothing (i := .obd) rfl rfl, fun _ _ => rfl⟩
  case ogi => exact ⟨_, rfl, rfl, exec_registersOnly (i := .ogi y) rfl rfl⟩
  case omg => exact ⟨_, rfl, rfl, exec_registersOnly (i := .omg) rfl rfl⟩

/-- Settles O30: XAS writes A, SIO and SKL from the old SIO, A and C. -/
theorem xasExchangesSio : Obligations.XasExchangesSio := by
  unfold Obligations.XasExchangesSio
  exact ⟨encodedBy_of_encode rfl rfl fun _ => rfl, rfl, fun s =>
    ⟨_, rfl, rfl, rfl, rfl, exec_registersOnly (i := .xas) rfl rfl⟩⟩

end Sys2Proof.Machine

/-! PROOFS. The machine's own step in HALT, in IDLE and at an interrupt, the count of the time base over many cycles, the
cycles of the event counter and of the serial port, and what each event does to HALT and IDLE; and from them the statements
of 60_exceptions.md. -/

namespace Sys2Proof.Machine

/-! ### The machine's own step where it fetches nothing -/

section
variable {s : State}

/-- In HALT the machine's step changes nothing (R269, D18). -/
theorem machineStep_of_halted (h : s.isHalted = true) : machineStep s = .next s :=
  if_pos h

/-- In IDLE the machine's step is one cycle of the time base (R272). -/
theorem machineStep_of_idle (hrun : s.isHalted = false) (hidle : s.idle = true) : machineStep s = .next s.timeBase := by
  simp [machineStep, hrun, hidle]

/-- An acknowledged interrupt is taken in place of an instruction (R255). -/
theorem machineStep_of_acknowledges (h : s.acknowledges = true) : machineStep s = .next s.interrupt := by
  have hgate := h
  simp only [State.acknowledges, Bool.and_eq_true, Bool.not_eq_true'] at hgate
  obtain ⟨⟨⟨-, hrun⟩, hidle⟩, -⟩ := hgate
  simp [machineStep, hrun, hidle, h]

end

/-! ### The interrupt -/

/-- R254 (d): the group of transfer of control, written out. -/
theorem Instr.isTransferOfControl_iff (i : Instr) : i.isTransferOfControl = true ↔
    i = .jid ∨ (∃ a, i = .jmp a) ∨ (∃ a, i = .jpPages23 a) ∨ (∃ a, i = .jpPage a) ∨ (∃ a, i = .jsrp a) ∨ (∃ a, i = .jsr a)
      ∨ i = .ret ∨ i = .retsk ∨ i = .halt ∨ i = .it := by
  cases i <;> simp [Instr.isTransferOfControl]

/-- R254 (e): LBI in both encodings. -/
theorem Instr.isLbi_iff (i : Instr) : i.isLbi = true ↔ (∃ r d, i = .lbiShort r d) ∨ ∃ r d, i = .lbiLong r d := by
  cases i <;> simp [Instr.isLbi]

/-- LBI is no transfer of control. -/
theorem Instr.isTransferOfControl_of_isLbi {i : Instr} (h : i.isLbi = true) : i.isTransferOfControl = false := by
  obtain ⟨r, d, rfl⟩ | ⟨r, d, rfl⟩ := (Instr.isLbi_iff i).1 h <;> rfl

/-- An operand that lacks bit n alone clears that bit of a digit and keeps the others. -/
theorem digit_and_clears {v mask : Digit} {n : Nat} (hmask : ∀ k < 4, mask.getLsbD k = (k != n)) :
    ∀ k < 4, (v &&& mask).getLsbD k = (v.getLsbD k && k != n) := by
  intro k hk
  rw [BitVec.getLsbD_and, hmask k hk]

section
variable {s : State}

/-- Without EN[1] or without a request nothing is acknowledged (R254 a, b). -/
theorem State.acknowledges_of_not_requested (h : s.en.getLsbD 1 = false ∨ s.intReq = false) : s.acknowledges = false := by
  obtain h | h := h
  · rw [State.acknowledges, h]
    rfl
  · simp [State.acknowledges, h]

/-- In a running machine with EN[1] and a request, the instruction at PC decides (R254 d, e). -/
theorem State.acknowledges_of_requested {i : Instr} (hrun : s.isHalted = false) (hidle : s.idle = false)
    (hen : s.en.getLsbD 1 = true) (hreq : s.intReq = true) (hf : s.fetch = .ok i) : s.acknowledges =
      (!i.isTransferOfControl && !(i.isLbi && (s.lbiChain || !s.cfg.params.ackBeforeFirstLbi))) := by
  simp [State.acknowledges, State.boundaryAllows, hrun, hidle, hen, hreq, hf]

end

/-- Settles O43: a running machine fetches unless it acknowledges, and whether it does hangs on the request and on the
instruction at PC. -/
theorem interruptBoundary : Obligations.InterruptBoundary := by
  unfold Obligations.InterruptBoundary
  refine ⟨Instr.isTransferOfControl_iff, Instr.isLbi_iff, fun s hev hrun hidle => ⟨fun h => ?noRequest,
    fun hen hreq i rest hdecode => ?requested⟩⟩
  case noRequest => exact ⟨hev, hrun, hidle, State.acknowledges_of_not_requested h⟩
  case requested =>
    have hack := State.acknowledges_of_requested hrun hidle hen hreq (State.fetch_of_decode hdecode)
    have taken (h : s.acknowledges = true) : step s = .next s.interrupt := by
      rw [step_of_noEvent hev, machineStep_of_acknowledges h]
    have fetched (h : s.acknowledges = false) : s.Running := ⟨hev, hrun, hidle, h⟩
    refine ⟨fun htoc hlbi => taken ?_, fun htoc => fetched ?_, fun hlbi hchain => fetched ?_,
      fun hlbi hchain hparam => taken ?_, fun hlbi hchain hparam => fetched ?_⟩
    · simp [hack, htoc, hlbi]
    · simp [hack, htoc]
    · simp [hack, hlbi, hchain]
    · simp [hack, Instr.isTransferOfControl_of_isLbi hlbi, hchain, hparam]
    · simp [hack, hlbi, hparam]

/-- Settles O44: the step is the entry and its ticks, and the entry writes the stack, PC, both skip latches, the request and
EN. -/
theorem interruptEntrySavesState : Obligations.InterruptEntrySavesState := by
  unfold Obligations.InterruptEntrySavesState
  intro s hev hack
  have hstep : step s = .next s.interrupt := by
    rw [step_of_noEvent hev, machineStep_of_acknowledges hack]
  have hen : ∀ k < 4, s.enterInterrupt.en.getLsbD k = (s.en.getLsbD k && k != 1) := digit_and_clears (by decide)
  exact ⟨s.enterInterrupt, hstep, rfl, rfl, rfl, rfl, rfl, rfl, rfl, hen, rfl, storesNothing_of rfl rfl rfl rfl⟩

/-- What both returns pop (R165, R166, R258): they differ in SKIP alone. -/
theorem exec_return_pops {u t : State} (h : exec .ret u = .next t ∨ exec .retsk u = .next t) :
    t.pc = u.sa ∧ t.sa = u.sb ∧ t.sb = u.sc ∧ t.sc = u.sc ∧ t.sskip = false ∧ t.en = u.en := by
  obtain h | h := h
  · rw [exec_ret] at h
    cases h
    exact ⟨rfl, rfl, rfl, rfl, rfl, rfl⟩
  · rw [exec_retsk] at h
    cases h
    exact ⟨rfl, rfl, rfl, rfl, rfl, rfl⟩

/-- Settles O45: what the return pops is what the entry pushed, and the skip status it restores is the saved one. -/
theorem returnFromInterrupt : Obligations.ReturnFromInterrupt := by
  unfold Obligations.ReturnFromInterrupt
  intro s u t hsa hsb hsc hsskip h
  obtain ⟨-, entrySa, entrySb, entrySc, entrySskip, -⟩ := s.interrupt_spec
  obtain ⟨hpc, htsa, htsb, htsc, htsskip, hen⟩ := exec_return_pops h
  refine ⟨hpc.trans (hsa.trans entrySa), htsa.trans (hsb.trans entrySb), htsb.trans (hsc.trans entrySc),
    htsc.trans (hsc.trans entrySc), htsskip, hen, fun hret => ?ret, fun hretsk => ?retsk⟩
  case ret =>
    rw [exec_ret] at hret
    cases hret
    exact hsskip.trans entrySskip
  case retsk =>
    rw [exec_retsk] at hretsk
    cases hretsk
    rfl

/-! ### The time base (R263) -/

section
variable {s : State}

theorem State.count10_lt (s : State) : s.count10 < 1024 := by
  have ht := s.t.isLt
  have htp := s.tp.isLt
  unfold State.count10
  omega

/-- A count of 0 is T = 0 and TP = 0. -/
theorem State.eq_zero_of_count10 (h : s.count10 = 0) : s.t = 0#8 ∧ s.tp = 0#2 := by
  unfold State.count10 at h
  exact ⟨BitVec.eq_of_toNat_eq (by simp; omega), BitVec.eq_of_toNat_eq (by simp; omega)⟩

/-- The time-base tick writes T, TP, TOV and IDLE. -/
theorem State.timeBase_frame (s : State) :
    s.timeBase = { s with t := s.timeBase.t, tp := s.timeBase.tp, tov := s.timeBase.tov, idle := s.timeBase.idle } := by
  unfold State.timeBase
  split <;> rfl

/-- Short of the wrap the time-base tick writes T and TP alone. -/
theorem State.timeBase_of_noWrap (htimer : s.cfg.options.timer = .timeBase) (h : s.count10 ≠ 1023) :
    s.timeBase = { s with t := s.timeBase.t, tp := s.timeBase.tp } := by
  obtain ⟨-, htov, hidle⟩ := s.timeBase_count htimer
  have htov' : s.timeBase.tov = s.tov := by simp [htov, h]
  have hidle' : s.timeBase.idle = s.idle := by simp [hidle, h]
  have hframe := s.timeBase_frame
  rwa [htov', hidle'] at hframe

/-- The wrap of the time base clears the count, sets TOV and ends IDLE. -/
theorem State.timeBase_of_wrap (htimer : s.cfg.options.timer = .timeBase) (h : s.count10 = 1023) :
    s.timeBase = { s with t := 0#8, tp := 0#2, tov := true, idle := false } := by
  obtain ⟨hcount, htov, hidle⟩ := s.timeBase_count htimer
  have hzero : s.timeBase.count10 = 0 := by rw [hcount, h]
  obtain ⟨ht, htp⟩ := State.eq_zero_of_count10 hzero
  have htov' : s.timeBase.tov = true := by simp [htov, h]
  have hidle' : s.timeBase.idle = false := by simp [hidle, h]
  have hframe := s.timeBase_frame
  rwa [ht, htp, htov', hidle'] at hframe

/-- One cycle: a tick counts as the time base does, the serial port having no part in it. -/
theorem State.tick_false_count (htimer : s.cfg.options.timer = .timeBase) :
    (s.tick false).count10 = (s.count10 + 1) % 1024
      ∧ (s.tick false).tov = (s.tov || decide (s.count10 = 1023))
      ∧ (s.tick false).idle = (s.idle && !decide (s.count10 = 1023)) := by
  obtain ⟨ht, htp, htov, hidle⟩ := s.timeBase.serial_timeBaseFields
  have hcount : s.timeBase.serial.count10 = s.timeBase.count10 := by rw [State.count10, ht, htp, State.count10]
  rw [State.tick_false, hcount, htov, hidle]
  exact s.timeBase_count htimer

/-- n cycles add n to the count modulo 1024; TOV and IDLE say whether it has wrapped. -/
theorem State.ticks_false_count (htimer : s.cfg.options.timer = .timeBase) (n : Nat) :
    (State.ticks false n s).count10 = (s.count10 + n) % 1024
      ∧ ((State.ticks false n s).tov = true ↔ s.tov = true ∨ 1024 ≤ s.count10 + n)
      ∧ ((State.ticks false n s).idle = true ↔ s.idle = true ∧ s.count10 + n < 1024) := by
  have hlt := s.count10_lt
  induction n generalizing s with
  | zero =>
    refine ⟨(Nat.mod_eq_of_lt hlt).symm, (or_iff_left ?_).symm, (and_iff_left hlt).symm⟩
    exact Nat.not_le.2 hlt
  | succ n ih =>
    obtain ⟨hcount, htov, hidle⟩ := State.tick_false_count htimer
    have htimer' : (s.tick false).cfg.options.timer = .timeBase := by rw [State.tick_cfg, htimer]
    obtain ⟨ihcount, ihtov, ihidle⟩ := ih htimer' (s.tick false).count10_lt
    simp only [State.ticks]
    rw [ihcount, ihtov, ihidle, hcount, htov, hidle]
    simp only [Bool.or_eq_true, Bool.and_eq_true, Bool.not_eq_true', decide_eq_true_eq, decide_eq_false_iff_not]
    refine ⟨by omega, ?_, ?_⟩
    · rw [or_assoc]
      exact or_congr_right (by omega)
    · rw [and_assoc]
      exact and_congr_right fun _ => by omega

end

/-- Settles O47: `State.ticks_false_count`, the frame of the time base, and the steps in IDLE and in HALT. -/
theorem timeBaseCountsCycles : Obligations.TimeBaseCountsCycles := by
  unfold Obligations.TimeBaseCountsCycles
  intro s htimer
  refine ⟨State.ticks_false_count htimer, s.timeBase_frame, fun hev hrun hidle => ?idle, fun hev hhalt => ?halt⟩
  case idle => rw [step_of_noEvent hev, machineStep_of_idle hrun hidle]
  case halt => rw [step_of_noEvent hev, machineStep_of_halted hhalt]

/-! ### The event counter (R264) -/

section
variable {s : State}

/-- With the event counter a cycle is the serial port's alone. -/
theorem State.tick_eventCounter (h : s.cfg.options.timer = .eventCounter) (camt : Bool) : s.tick camt = s.serial := by
  cases camt with
  | true => exact s.tick_true
  | false => rw [State.tick_false, State.timeBase_eventCounter s h]

/-- With the event counter cycles leave T and TOV alone. -/
theorem State.ticks_eventCounter (h : s.cfg.options.timer = .eventCounter) (camt : Bool) (n : Nat) :
    (State.ticks camt n s).t = s.t ∧ (State.ticks camt n s).tov = s.tov := by
  induction n generalizing s with
  | zero => exact ⟨rfl, rfl⟩
  | succ n ih =>
    obtain ⟨iht, ihtov⟩ := ih (s := s.serial) (by rw [State.serial_cfg, h])
    rw [State.ticks, State.tick_eventCounter h, iht, ihtov]
    exact ⟨s.serial_t, s.serial_tov⟩

/-- A pulse on IN2 counts T of a running chip that has the pin. -/
theorem State.pulseIN2_eventCounter (h : s.cfg.options.timer = .eventCounter) (hin : s.hasIn = true)
    (hrun : s.isStopped = false) : s.pulseIN2 = s.countIf true := by
  simp [State.pulseIN2, State.takePulse_running hrun, State.registersInPulse_running hrun, hin, h]

/-- Without IN pins a pulse on IN2 counts nothing. -/
theorem State.pulseIN2_of_not_hasIn (hin : s.hasIn = false) : s.pulseIN2 = s.takePulse.countIf false := by
  simp [State.pulseIN2, State.registersInPulse, hin]

/-- MICROBUS goes with the time base only (U13). -/
theorem Config.legal_eventCounter {c : Config} (hlegal : c.legal = true) (h : c.options.timer = .eventCounter) :
    c.options.microbus = false := by
  simp only [Config.legal, Bool.and_eq_true, h] at hlegal
  obtain ⟨⟨-, hmicrobus⟩, -⟩ := hlegal
  simpa using hmicrobus

end

/-- Settles O48: the cycles by `State.ticks_eventCounter`, the pulse by whether the chip has the pin. -/
theorem eventCounterCountsPulses : Obligations.EventCounterCountsPulses := by
  unfold Obligations.EventCounterCountsPulses
  intro s htimer
  refine ⟨State.ticks_eventCounter htimer, fun hin hrun => ?counts, fun hin => ?noPin, fun t => ?it,
    fun hlegal => Config.legal_eventCounter hlegal htimer⟩
  case counts =>
    rw [State.deliver, State.pulseIN2_eventCounter htimer hin hrun]
    refine ⟨?_, ?_, rfl⟩
    · rw [State.countIf_t, if_pos rfl, BitVec.toNat_add]
      rfl
    · rw [State.countIf_tov, Bool.true_and, Bool.or_eq_true, beq_iff_eq, ← BitVec.toNat_inj]
      rfl
  case noPin =>
    rw [State.deliver, State.pulseIN2_of_not_hasIn hin]
    simp
  case it =>
    rw [exec_it_of_eventCounter htimer]
    nofun

/-! ### The serial port (R274, R275) -/

/-- SIO after one shift that takes the level into bit 0. -/
def shiftIn (v : Digit) (level : Bool) : Digit := v.extractLsb' 0 3 ++ BitVec.ofBool level

theorem shiftIn_toNat (v : Digit) (level : Bool) : (shiftIn v level).toNat = (v.toNat * 2 + level.toNat) % 16 := by
  revert v level
  decide

/-- Four shifts replace all four bits, the first level taken ending up in bit 3. -/
theorem shiftIn_four (v : Digit) (l1 l2 l3 l4 : Bool) :
    ([l1, l2, l3, l4].foldl shiftIn v).getLsbD 3 = l1 ∧ ([l1, l2, l3, l4].foldl shiftIn v).getLsbD 2 = l2
      ∧ ([l1, l2, l3, l4].foldl shiftIn v).getLsbD 1 = l3 ∧ ([l1, l2, l3, l4].foldl shiftIn v).getLsbD 0 = l4 := by
  revert v l1 l2 l3 l4
  decide

section
variable {s : State}

/-- In the shift mode a cycle is one shift of SIO. -/
theorem State.tick_sio_eq_shiftIn (h : s.en.getLsbD 0 = false) (camt : Bool) :
    (s.tick camt).sio = shiftIn s.sio s.sample.si :=
  State.tick_sio_shiftMode h camt

/-- In the shift mode every cycle takes a sample. -/
theorem State.tick_pinQueue_shiftMode (h : s.en.getLsbD 0 = false) (camt : Bool) :
    (s.tick camt).pinQueue = s.pinQueue.tail := by
  cases camt with
  | true => rw [State.tick_true, State.serial_shiftMode h, State.takeSample_pinQueue]
  | false =>
    have hen : s.timeBase.en.getLsbD 0 = false := by rw [State.timeBase_en, h]
    rw [State.tick_false, State.serial_shiftMode hen, State.takeSample_pinQueue, State.timeBase_pinQueue]

/-- In the shift mode as many cycles as there are samples shift the SI of each into SIO, one after the other. -/
theorem State.ticks_shiftMode (h : s.en.getLsbD 0 = false) (camt : Bool) {ps rest : List Pins}
    (hq : s.pinQueue = ps ++ rest) :
    (State.ticks camt ps.length s).pinQueue = rest
      ∧ (State.ticks camt ps.length s).sio = (ps.map Pins.si).foldl shiftIn s.sio := by
  induction ps generalizing s with
  | nil => exact ⟨hq, rfl⟩
  | cons p ps ih =>
    have hsample : s.sample = p := by rw [State.sample, hq]; rfl
    have hsio : (s.tick camt).sio = shiftIn s.sio p.si := by rw [State.tick_sio_eq_shiftIn h, hsample]
    have hqueue : (s.tick camt).pinQueue = ps ++ rest := by rw [State.tick_pinQueue_shiftMode h, hq]; rfl
    have hen : (s.tick camt).en.getLsbD 0 = false := by rw [State.tick_en, h]
    obtain ⟨ihqueue, ihsio⟩ := ih hen hqueue
    rw [hsio] at ihsio
    exact ⟨ihqueue, ihsio⟩

/-- In the counter mode cycles leave SIO alone. -/
theorem State.ticks_sio_counterMode (h : s.en.getLsbD 0 = true) (camt : Bool) (n : Nat) :
    (State.ticks camt n s).sio = s.sio := by
  induction n generalizing s with
  | zero => rfl
  | succ n ih => rw [State.ticks, ih (by rw [State.tick_en, h]), State.tick_sio_counterMode h]

/-- In the shift mode a pulse on SI of a running chip does nothing (R275). -/
theorem State.pulseSI_shiftMode (h : s.en.getLsbD 0 = false) (hrun : s.isStopped = false) : s.pulseSI = s := by
  rw [State.pulseSI, State.takePulse_running hrun, h]
  rfl

end

/-- Settles O49: each cycle is one `shiftIn`, and after four of them the bits are the four samples. -/
theorem serialShift : Obligations.SerialShift := by
  unfold Obligations.SerialShift
  intro s hen
  refine ⟨fun camt => ?shift, ?frame, fun hso => ?so, fun camt p1 p2 p3 p4 rest hq => ?four⟩
  case shift =>
    rw [State.tick_sio_eq_shiftIn hen]
    exact shiftIn_toNat s.sio s.sample.si
  case frame => rw [State.serial_shiftMode hen]
  case so => rw [State.soDrive_shiftMode hen, if_pos hso]
  case four =>
    obtain ⟨hqueue, hsio⟩ : (State.ticks camt 4 s).pinQueue = rest
        ∧ (State.ticks camt 4 s).sio = [p1.si, p2.si, p3.si, p4.si].foldl shiftIn s.sio :=
      State.ticks_shiftMode hen camt (ps := [p1, p2, p3, p4]) hq
    have hbits := shiftIn_four s.sio p1.si p2.si p3.si p4.si
    rw [← hsio] at hbits
    exact ⟨hqueue, hbits⟩

/-- Settles O50: the pulse on a running chip in both modes of SIO, and the cycles in the counter mode. -/
theorem serialCounter : Obligations.SerialCounter := by
  unfold Obligations.SerialCounter
  intro s hrun
  refine ⟨fun hen => ?counter, fun hen => State.pulseSI_shiftMode hen hrun⟩
  case counter =>
    rw [State.deliver, State.pulseSI_counterMode hen hrun]
    exact ⟨digit_sub_one_toNat s.sio, rfl, State.ticks_sio_counterMode hen⟩

/-! ### The MICROBUS host (R278 to R280) -/

section
variable {s : State}

theorem State.hostWrite_of_microbus (h : s.cfg.options.microbus = true) (v : Byte) :
    s.hostWrite v = { s with q := v, g := s.g &&& 0b1110#4 } :=
  if_pos h

theorem State.hostWrite_of_noMicrobus (h : s.cfg.options.microbus = false) (v : Byte) : s.hostWrite v = s :=
  if_neg (Bool.eq_false_iff.1 h)

end

/-- Settles O52: the option decides both accesses. -/
theorem hostWriteAndRead : Obligations.HostWriteAndRead := by
  unfold Obligations.HostWriteAndRead
  intro s v
  refine ⟨rfl, fun h => ?microbus, fun h => ?noMicrobus⟩
  case microbus =>
    rw [State.deliver, State.hostWrite_of_microbus h]
    refine ⟨rfl, digit_and_clears (by decide), rfl, ?_⟩
    simp [State.lDrive, h]
  case noMicrobus =>
    refine ⟨State.hostWrite_of_noMicrobus h v, ?_⟩
    simp [State.lDrive, h]

/-! ### How long HALT and IDLE last -/

section
variable {s : State}

/-- In IDLE, short of the wrap, k steps are k counts, and nothing but the count changes (R272). -/
theorem run_of_idle (htimer : s.cfg.options.timer = .timeBase) (hev : s.events = []) (hrun : s.isHalted = false)
    (hidle : s.idle = true) {k : Nat} (hk : s.count10 + k < 1024) :
    ∃ t : State, State.run k s = .next t ∧ t.count10 = s.count10 + k ∧ t = { s with t := t.t, tp := t.tp } := by
  induction k with
  | zero => exact ⟨s, rfl, rfl, rfl⟩
  | succ k ih =>
    obtain ⟨t, hreach, hcount, hframe⟩ := ih (by omega)
    have hcfg : t.cfg.options.timer = .timeBase := by rw [hframe]; exact htimer
    have hstep : step t = .next t.timeBase := by
      rw [step_of_noEvent (by rw [hframe]; exact hev)]
      exact machineStep_of_idle (by rw [hframe]; exact hrun) (by rw [hframe]; exact hidle)
    refine ⟨t.timeBase, (run_snoc hreach).trans hstep, ?_, ?_⟩
    · obtain ⟨hnext, -, -⟩ := t.timeBase_count hcfg
      rw [hnext, hcount]
      omega
    · have hnext := State.timeBase_of_noWrap hcfg (by omega)
      rw [hframe] at hnext ⊢
      exact hnext

/-- In IDLE the step at the highest count is the wrap, which ends IDLE (R273). -/
theorem step_of_idle_wrap (htimer : s.cfg.options.timer = .timeBase) (hev : s.events = []) (hrun : s.isHalted = false)
    (hidle : s.idle = true) (hcount : s.count10 = 1023) :
    step s = .next { s with t := 0#8, tp := 0#2, tov := true, idle := false } := by
  rw [step_of_noEvent hev, machineStep_of_idle hrun hidle, State.timeBase_of_wrap htimer hcount]

/-- The cycles that are left until the wrap, as R273 writes them. -/
theorem State.idleCycles_eq (s : State) : (256 - s.t.toNat) * 4 - s.tp.toNat = 1024 - s.count10 := by
  have ht := s.t.isLt
  unfold State.count10
  omega

end

/-- Settles O53: `run_of_idle` up to the highest count, and the wrap one step later. -/
theorem idleLasts : Obligations.IdleLasts := by
  unfold Obligations.IdleLasts
  intro s htimer hev hrun hidle
  have hlt := s.count10_lt
  rw [State.idleCycles_eq]
  refine ⟨fun k hk => run_of_idle htimer hev hrun hidle (by omega), ?_⟩
  obtain ⟨t, hreach, hcount, hframe⟩ := run_of_idle htimer hev hrun hidle (k := 1023 - s.count10) (by omega)
  have hsteps : 1024 - s.count10 = 1023 - s.count10 + 1 := by omega
  have hwrap : t.count10 = 1023 := by omega
  rw [hsteps, run_snoc hreach]
  rw [hframe] at hwrap ⊢
  exact step_of_idle_wrap htimer hev hrun hidle hwrap

/-- Settles O54: each of the steps is the step in HALT. -/
theorem haltedIsFrozen : Obligations.HaltedIsFrozen := by
  unfold Obligations.HaltedIsFrozen
  intro s n hev hhalt
  induction n with
  | zero => rfl
  | succ n ih => rw [run_snoc ih, step_of_noEvent hev, machineStep_of_halted hhalt]

/-! ### What each event does to HALT and IDLE -/

theorem State.isHalted_iff (s : State) : s.isHalted = true ↔ s.halted = true ∨ s.clockStopped = true := by
  rw [State.isHalted, Bool.or_eq_true]

section
variable {s : State}

theorem State.latches_of_not_isHalted (h : s.isHalted = false) : s.halted = false ∧ s.clockStopped = false :=
  Bool.or_eq_false_iff.1 h

theorem State.haltForce_of_haltPort (h : s.cfg.options.cko = .haltPort) : s.haltForce = s.requestHalt :=
  if_pos h

theorem State.continueRun_of_haltPort (h : s.cfg.options.cko = .haltPort) : s.continueRun = { s with halted := false } :=
  if_pos h

/-- Without the HALT I/O port HaltForce does nothing (entry 26). -/
theorem State.haltForce_of_noHaltPort (h : s.cfg.options.cko ≠ .haltPort) : s.haltForce = s :=
  if_neg h

/-- Without the HALT I/O port Continue does nothing (entry 26). -/
theorem State.continueRun_of_noHaltPort (h : s.cfg.options.cko ≠ .haltPort) : s.continueRun = s :=
  if_neg h

/-- A HALT request keeps a halted machine halted, by whichever latch. -/
theorem State.requestHalt_isHalted (h : s.isHalted = true) : s.requestHalt.isHalted = true := by
  rw [State.isHalted_iff] at h ⊢
  rw [State.requestHalt_clockStopped]
  refine h.imp_left fun hh => ?_
  unfold State.requestHalt
  split
  · simp [hh]
  · rfl

/-- The events that end HALT: reset, the continue function at the HALT I/O port, and the clock (R270). -/
theorem State.deliver_endsHalt {e : Event} (h : s.isHalted = true) (hend : (s.deliver e).isHalted = false) :
    e = .resetPin ∨ e = .powerUp
      ∨ (e = .continueRun ∧ s.cfg.options.cko = .haltPort ∧ s.clockStopped = false
          ∧ s.deliver e = { s with halted := false })
      ∨ (e = .clockStart ∧ s.halted = false ∧ s.deliver e = { s with clockStopped := false }) := by
  have contra {u : State} (hu : u.isHalted = true) (hu' : u.isHalted = false) : False := by simp [hu] at hu'
  have pulse : s.takePulse.isHalted = true := by
    rwa [State.isHalted, State.takePulse_halted, State.takePulse_clockStopped]
  cases e
  case resetPin => exact .inl rfl
  case powerUp => exact .inr (.inl rfl)
  case quiet | hostRead => exact (contra h hend).elim
  case pulseIN0 | pulseIN1 | pulseIN2 | pulseIN3 | pulseSI => exact (contra pulse hend).elim
  case haltForce =>
    rw [State.deliver] at hend
    by_cases hport : s.cfg.options.cko = .haltPort
    · rw [State.haltForce_of_haltPort hport] at hend
      exact (contra (State.requestHalt_isHalted h) hend).elim
    · rw [State.haltForce_of_noHaltPort hport] at hend
      exact (contra h hend).elim
  case continueRun =>
    rw [State.deliver] at hend ⊢
    by_cases hport : s.cfg.options.cko = .haltPort
    · rw [State.continueRun_of_haltPort hport] at hend ⊢
      obtain ⟨-, hclock⟩ := State.latches_of_not_isHalted hend
      exact .inr (.inr (.inl ⟨rfl, hport, hclock, rfl⟩))
    · rw [State.continueRun_of_noHaltPort hport] at hend
      exact (contra h hend).elim
  case clockStop =>
    obtain ⟨-, hclock⟩ := State.latches_of_not_isHalted hend
    cases hclock
  case clockStart =>
    obtain ⟨hhalted, -⟩ := State.latches_of_not_isHalted hend
    exact .inr (.inr (.inr ⟨rfl, hhalted, rfl⟩))
  case hostWrite v =>
    have hkept : (s.hostWrite v).isHalted = s.isHalted := by
      unfold State.hostWrite
      split <;> rfl
    exact (contra (hkept.trans h) hend).elim

/-- No event but reset changes IDLE (D17, entry 42). -/
theorem State.deliver_idle (s : State) (e : Event) (hpin : e ≠ .resetPin) (hpower : e ≠ .powerUp) :
    (s.deliver e).idle = s.idle := by
  cases e
  case resetPin => exact absurd rfl hpin
  case powerUp => exact absurd rfl hpower
  case quiet | hostRead | clockStop | clockStart => rfl
  case pulseIN0 | pulseIN1 | pulseIN2 | pulseIN3 | pulseSI => exact s.takePulse_idle
  case haltForce =>
    rw [State.deliver, State.haltForce]
    split
    · exact s.requestHalt_idle
    · rfl
  case continueRun | hostWrite =>
    simp only [State.deliver, State.continueRun, State.hostWrite]
    split <;> rfl

/-- The machine's own step ends IDLE by the overflow of the time base alone (R273). -/
theorem machineStep_endsIdle {t : State} (h : machineStep s = .next t) (hidle : s.idle = true) (hend : t.idle = false) :
    s.cfg.options.timer = .timeBase ∧ s.count10 = 1023 ∧ t.count10 = 0 ∧ t.tov = true := by
  cases hrun : s.isHalted with
  | true =>
    rw [machineStep_of_halted hrun] at h
    cases h
    simp [hidle] at hend
  | false =>
    rw [machineStep_of_idle hrun hidle] at h
    cases h
    cases htimer : s.cfg.options.timer with
    | eventCounter => simp [State.timeBase_eventCounter s htimer, hidle] at hend
    | timeBase =>
      obtain ⟨hcount, htov, hidle'⟩ := s.timeBase_count htimer
      have hwrap : s.count10 = 1023 := by simpa [hidle', hidle] using hend
      exact ⟨rfl, hwrap, by rw [hcount, hwrap], by simp [htov, hwrap]⟩

end

section
variable {s t : State}

/-- The steps that end HALT: the delivery of one of the events that do. -/
theorem step_endsHalt (h : step s = .next t) (hhalt : s.isHalted = true) (hend : t.isHalted = false) :
    ∃ rest, s.events = .resetPin :: rest ∨ s.events = .powerUp :: rest
      ∨ (s.events = .continueRun :: rest ∧ s.cfg.options.cko = .haltPort ∧ s.clockStopped = false
          ∧ t = { s with events := rest, halted := false })
      ∨ (s.events = .clockStart :: rest ∧ s.halted = false ∧ t = { s with events := rest, clockStopped := false }) := by
  obtain ⟨e, rest, -, hev, rfl⟩ | ⟨rest, -, hstep⟩ := step_cases h
  · refine ⟨rest, ?_⟩
    obtain rfl | rfl | ⟨rfl, hport, hclock, ht⟩ | ⟨rfl, hhalted, ht⟩ :=
      State.deliver_endsHalt (s := { s with events := rest }) hhalt hend
    · exact .inl hev
    · exact .inr (.inl hev)
    · exact .inr (.inr (.inl ⟨hev, hport, hclock, ht⟩))
    · exact .inr (.inr (.inr ⟨hev, hhalted, ht⟩))
  · rw [machineStep_of_halted (s := { s with events := rest }) hhalt] at hstep
    cases hstep
    exact absurd hhalt (Bool.eq_false_iff.1 hend)

/-- The steps that end IDLE: a reset, or the machine's own step at the overflow. -/
theorem step_endsIdle (h : step s = .next t) (hidle : s.idle = true) (hend : t.idle = false) :
    (∃ rest, s.events = .resetPin :: rest ∨ s.events = .powerUp :: rest)
      ∨ (s.cfg.options.timer = .timeBase ∧ s.count10 = 1023 ∧ t.count10 = 0 ∧ t.tov = true) := by
  obtain ⟨e, rest, -, hev, rfl⟩ | ⟨rest, -, hstep⟩ := step_cases h
  · left
    refine ⟨rest, ?_⟩
    by_contra hno
    have hpin : e ≠ .resetPin := fun he => hno (.inl (he ▸ hev))
    have hpower : e ≠ .powerUp := fun he => hno (.inr (he ▸ hev))
    rw [State.deliver_idle _ e hpin hpower] at hend
    exact Bool.eq_false_iff.1 hend hidle
  · exact .inr (machineStep_endsIdle (s := { s with events := rest }) hstep hidle hend)

end

/-- HaltForce at the HALT I/O port is a step that requests HALT (R268 b). -/
theorem step_of_haltForce {s : State} {rest : List Event} (hev : s.events = .haltForce :: rest)
    (hport : s.cfg.options.cko = .haltPort) : step s = .next (State.requestHalt { s with events := rest }) := by
  have hforce := State.haltForce_of_haltPort (s := { s with events := rest }) hport
  rw [step_of_event hev nofun, State.deliver, hforce]

/-- Settles O55: the events of HALT one by one, and the steps that end HALT and IDLE. -/
theorem onlyTheseEndHaltAndIdle : Obligations.OnlyTheseEndHaltAndIdle := by
  unfold Obligations.OnlyTheseEndHaltAndIdle
  refine ⟨fun s rest => ⟨fun hev hport => ⟨fun hclock => ?force, fun hclock => ?forceExternalClock⟩,
    fun hev hport => ?resume, fun hev hport => ?noPort, fun hev => step_of_event hev nofun,
    fun hev => step_of_event hev nofun, s.isHalted_iff⟩,
    fun s t h => ⟨step_endsHalt h, step_endsIdle h⟩⟩
  case force =>
    have hrequest := State.requestHalt_of_noExternalClock (s := { s with events := rest }) hclock
    rw [step_of_haltForce hev hport, hrequest]
  case forceExternalClock =>
    have hrequest := State.requestHalt_of_externalClock (s := { s with events := rest }) hclock
    have hsample : State.sample { s with events := rest } = s.sample := State.sample_congr rfl rfl
    rw [step_of_haltForce hev hport, hrequest, hsample]
    exact ⟨_, rfl, by simp, rfl⟩
  case resume =>
    have hcontinue := State.continueRun_of_haltPort (s := { s with events := rest }) hport
    rw [step_of_event hev nofun, State.deliver, hcontinue]
  case noPort =>
    have hforce := State.haltForce_of_noHaltPort (s := { s with events := rest }) hport
    have hcontinue := State.continueRun_of_noHaltPort (s := { s with events := rest }) hport
    obtain hev | hev := hev
    · rw [step_of_event hev nofun, State.deliver, hforce]
    · rw [step_of_event hev nofun, State.deliver, hcontinue]

end Sys2Proof.Machine

/-! PROOFS. What the RESET pin and power-up leave in the registers, with the internal initialization logic and without it;
and from them the statement of 70_reset_and_hazards.md. -/

namespace Sys2Proof.Machine

/-! ### What the two resets write -/

section
variable (s : State)

/-- The RESET pin initializes the chip from every state (R301). -/
theorem State.resetPin_initialized : s.resetPin.Initialized :=
  ⟨rfl, rfl, rfl, rfl, rfl, rfl, rfl, rfl, rfl, rfl, rfl, rfl, rfl, rfl, rfl, rfl, rfl, rfl, rfl⟩

/-- The RESET pin leaves both memories alone (R301). -/
theorem State.resetPin_storesNothing : StoresNothing s s.resetPin :=
  storesNothing_of s.resetPin_ram s.resetPin_ramEpoch s.resetPin_rom s.resetPin_cfg

/-- After a power-up every digit is the unknown one of a new epoch, whatever RAM held (R43, entry 28). -/
theorem State.readDigit_powerUp (i : Nat) : s.powerUp.readDigit i = Config.powerUpDigit (s.ramEpoch + 1) i := by
  rw [State.readDigit, State.powerUp_ram, State.powerUp_ramEpoch]
  rfl

/-- With the internal logic, power-up is the reset of the pin but for RAM (R300). -/
theorem State.powerUp_of_resetLogic (h : s.cfg.options.noResetLogic = false) :
    s.powerUp = { s.resetPin with ram := [], ramEpoch := s.ramEpoch + 1 } := by
  simp [State.powerUp, h]

/-- Without the internal logic, power-up leaves the registers unknown (option 29 = 1, R300, entry 44). -/
theorem State.powerUp_of_noResetLogic (h : s.cfg.options.noResetLogic = true) :
    s.powerUp = { s.uninitialized with ram := [], ramEpoch := s.ramEpoch + 1 } := by
  simp [State.powerUp, h]

/-- Being initialized says nothing about RAM, so the power-up of a chip with the internal logic initializes it too. -/
theorem State.powerUp_initialized (h : s.cfg.options.noResetLogic = false) : s.powerUp.Initialized := by
  rw [s.powerUp_of_resetLogic h]
  exact s.resetPin_initialized

end

/-- Settles O56: each event is a step that delivers it; the RESET pin and the two forms of power-up by what they write. -/
theorem resetEvent : Obligations.ResetEvent := by
  unfold Obligations.ResetEvent
  refine fun s rest => ⟨fun hev => ⟨_, step_of_event hev nofun, ?pin⟩,
    fun hev => ⟨_, step_of_event hev nofun, ?power⟩⟩
  case pin =>
    rw [State.deliver]
    exact ⟨rfl, State.resetPin_initialized _, State.resetPin_storesNothing _, rfl⟩
  case power =>
    rw [State.deliver]
    refine ⟨State.powerUp_events _, State.powerUp_cfg _, State.readDigit_powerUp _,
      State.romRead_congr (State.powerUp_rom _) (State.powerUp_cfg _), fun hoption => State.powerUp_initialized _ hoption,
      fun hoption => ⟨State.powerUp_clockStopped _, _, rfl, ?_⟩⟩
    have hpower := State.powerUp_of_noResetLogic (s := { s with events := rest }) hoption
    rw [hpower]
    exact ⟨rfl, rfl, rfl, rfl, rfl, rfl, rfl, rfl, rfl, rfl, rfl, rfl, rfl, rfl, rfl, rfl, rfl, rfl⟩

end Sys2Proof.Machine
